-- ==== Sys2Proof/Word.lean ====
section
/-! DEFINITION. The widths the spec works with (rules R8 and R10): bytes, 32-bit host words, 64-bit lanes.
Every value is unsigned; the logical operations and shifts of rule R8 are those of `BitVec`. -/

namespace Sys2Proof

/-- One byte of a byte sequence (rule R10). -/
abbrev Byte := BitVec 8

/-- One 32-bit word of the host interface (rules R39 and R57). -/
abbrev Word := BitVec 32

/-- One of the 64-bit lanes of the permutation state (rule R5, `W`). -/
abbrev Lane := BitVec 64

end Sys2Proof
end

