-- ==== Sys2Proof/Config.lean ====
section
/-! DEFINITION. What one platform or implementation fixes, and the free values: constants with no body,
so that nothing proved of the model depends on a value of theirs. -/

namespace Sys2Proof

/-- A base address for the register window. It is 32-byte aligned by construction (rule R7): the
address is 32 times `page`. -/
structure WindowBase where
  page : Nat
  deriving DecidableEq, Repr, Inhabited

/-- The byte address P_BASE that a `WindowBase` stands for. -/
def WindowBase.addr (b : WindowBase) : Nat := 32 * b.page

/-- P_BASE (rule R7, open parameter U5): any 32-byte aligned address. -/
opaque Config.pBase : WindowBase

/-- One less than P_PERM_CYCLES; see `Config.pPermCycles`. -/
opaque Config.pPermCyclesPred : Nat

/-- P_PERM_CYCLES (rules R7 and R133, open parameter U6): a positive integer. Nothing in the model reads
it, as rule R133 demands. -/
def Config.pPermCycles : Nat := Config.pPermCyclesPred + 1

/-- FREE VALUE (rule R127, U2). Bits 31:1 of a STATUS read while BUSY = 1, at the draw with this number. -/
opaque Config.busyStatusBits : Nat → BitVec 31

/-- FREE VALUE (rule R127, U3). How many host accesses the block may still answer before the command
accepted at the draw with this number completes: any finite number, zero included. -/
opaque Config.busyReads : Nat → Nat

end Sys2Proof
end

