-- ==== Sys2Proof/Syntax.lean ====
section
/-! DEFINITION. The commands of the block (rules R59 and R60): one constructor per row of
`spec/opcode_table.json`. -/

namespace Sys2Proof

/-- The variant `V` (rules R2 and R26): code 0 is SHAKE128, code 1 is SHAKE256. -/
inductive Variant where
  | shake128
  | shake256
  deriving DecidableEq, Repr, Inhabited

/-- The four commands. `N` is a count, legal from 0 to 4 (rule R60); the bound is checked by
`Instr.wf`, since the encoding's three bits can also say 5, 6 and 7. -/
inductive Instr where
  /-- NOP (rule R95). -/
  | nop
  /-- INIT V (rule R96). -/
  | init (v : Variant)
  /-- ABSORB N (rule R97). -/
  | absorb (n : Nat)
  /-- SQUEEZE N (rule R98). -/
  | squeeze (n : Nat)
  deriving DecidableEq, Repr

end Sys2Proof
end

