-- ==== Sys2Proof/WellFormed.lean ====
section
/-! DEFINITION. Which terms of `Instr` are commands of the block (rule R60's legal values). -/

namespace Sys2Proof

/-- The most bytes one ABSORB or SQUEEZE moves (rules R5 and R60). -/
abbrev maxCount : Nat := 4

/-- The legal operands of rule R60. `V` is a `Variant`, so it is legal by its type; `N` must be at most 4. -/
def Instr.wf : Instr → Bool
  | .nop => true
  | .init _ => true
  | .absorb n => decide (n ≤ maxCount)
  | .squeeze n => decide (n ≤ maxCount)

/-- A well-formed command: one of the 13 of rule R67. -/
abbrev Instr.WellFormed (i : Instr) : Prop := i.wf = true

end Sys2Proof
end

