-- ==== Sys2Proof/Decode.lean ====
section
/-! DEFINITION. The command word: its fields (rule R58), decoding (rule R61), the encoder (rule R65). -/

namespace Sys2Proof

/-- Why a word decodes to ILLEGAL (rules R61 and R105). The block reports one code for all of them;
the name is the model's own, for the reader. -/
inductive IllegalWord where
  /-- A nonzero bit in `w[31:7]`. -/
  | reservedBits
  /-- NOP with ARG other than 0. -/
  | nopArgument
  /-- INIT with V above 1. -/
  | initVariant
  /-- ABSORB with N above 4. -/
  | absorbCount
  /-- SQUEEZE with N above 4. -/
  | squeezeCount
  /-- One of the opcodes 0x4 to 0xF. -/
  | reservedOpcode
  deriving DecidableEq, Repr

/-- OPC, bits 3:0 (rule R58). -/
def opcField (w : Word) : BitVec 4 := w.extractLsb' 0 4

/-- ARG, bits 6:4 (rule R58). -/
def argField (w : Word) : BitVec 3 := w.extractLsb' 4 3

/-- RSV, bits 31:7 (rule R58). -/
def rsvField (w : Word) : BitVec 25 := w.extractLsb' 7 25

/-- Rule R61: `decode` is total on the 2^32 words, and refuses a word by name. -/
def decode (w : Word) : Except IllegalWord Instr :=
  if rsvField w ≠ 0 then .error .reservedBits
  else if opcField w = 0x0 then
    if argField w = 0 then .ok .nop else .error .nopArgument
  else if opcField w = 0x1 then
    if argField w = 0 then .ok (.init .shake128)
    else if argField w = 1 then .ok (.init .shake256)
    else .error .initVariant
  else if opcField w = 0x2 then
    if argField w ≤ 4 then .ok (.absorb (argField w).toNat) else .error .absorbCount
  else if opcField w = 0x3 then
    if argField w ≤ 4 then .ok (.squeeze (argField w).toNat) else .error .squeezeCount
  else .error .reservedOpcode

/-- The one-bit code of a variant (rules R2 and R60). -/
def variantCode : Variant → Word
  | .shake128 => 0
  | .shake256 => 1

/-- Rule R65: `encode`, the inverse of `decode` on the legal commands. -/
def encode : Instr → Word
  | .nop => 0x00000000
  | .init v => 0x00000001 ||| (variantCode v <<< 4)
  | .absorb n => 0x00000002 ||| (BitVec.ofNat 32 n <<< 4)
  | .squeeze n => 0x00000003 ||| (BitVec.ofNat 32 n <<< 4)

/-- What the decoder reads from the bits `w` of a row of `nbits` bits. Every command is one 32-bit word
(rules R57 and R64), so the bits above `nbits` are zeros of that one word. -/
def decodeTableWord (nbits w : Nat) : Option Instr :=
  match decode (BitVec.ofNat 32 (w % 2 ^ nbits)) with
  | .ok i => some i
  | .error _ => none

end Sys2Proof
end

