-- ==== Sys2Proof/Machine/State.lean ====
section
/-! DEFINITION. The architectural state of one KECCAK_XOF block (rules R17 to R36), the host's side of it
(pending inputs, data read back), and the reasons a step can stop. -/

namespace Sys2Proof.Machine

/-- The 25 lanes of S, lane number `n = x + 5*y` (rules R11, R18 and R19). -/
abbrev Lanes := Vector Lane 25

/-- All 1600 bits zero. -/
def Lanes.zero : Lanes := Vector.replicate 25 0

/-- PHASE (rule R22). -/
inductive Phase where
  | absorbing
  | squeezing
  deriving DecidableEq, Repr

/-- ERR (rules R28 and R104). -/
inductive ErrCode where
  | ok
  | illegalCmd
  | notInit
  | invalidState
  deriving DecidableEq, Repr

/-- What a host access does (rule R12): a read, or a write of a word. -/
inductive AccessOp where
  | read
  | write (w : Word)
  deriving DecidableEq, Repr

/-- One host access that the bus has delivered to the block: the byte offset of its address from P_BASE,
its width in bytes, and what it does (rules R12 and R38 to R40). -/
structure Access where
  off : Fin 32
  bytes : Nat
  op : AccessOp
  deriving DecidableEq, Repr

/-- What the outside world does to the block: an access to the window (rule R38), or driving the reset
input high (`true`) or low (`false`) (rule R120). -/
inductive HostEvent where
  | access (a : Access)
  | resetInput (asserted : Bool)
  deriving DecidableEq, Repr

/-- The command in progress while BUSY = 1 (rules R30 and R43): the word being executed, and how many host
accesses may still be answered before it completes (rule R127's free number). -/
structure InFlight where
  word : Word
  busyReads : Nat
  deriving DecidableEq, Repr

/-- The state of rule R17, element by element, then the model's own fields.
`busy = none` is BUSY = 0; `busy = some c` is BUSY = 1 with the command `c` in progress. -/
structure State where
  /-- S (rule R18). -/
  lanes : Lanes
  /-- BUF (rule R21). -/
  buf : List Byte
  /-- PHASE (rule R22). -/
  phase : Phase
  /-- CURSOR (rule R23). -/
  cursor : Nat
  /-- CFG (rule R25). -/
  cfg : Bool
  /-- VAR (rule R26). -/
  var : Variant
  /-- ERR (rule R28). -/
  err : ErrCode
  /-- STICKY (rule R29). -/
  sticky : Bool
  /-- BUSY (rule R30), with the command in progress. -/
  busy : Option InFlight
  /-- DIN (rule R31). -/
  din : Word
  /-- DOUT (rule R32). -/
  dout : Word
  /-- RND (rule R33). -/
  rnd : Fin 24
  /-- The level of the reset input (rule R120). -/
  resetLine : Bool
  /-- The model's own: what the outside world does next, in bus order, first event first (rule R53). -/
  events : List HostEvent
  /-- The model's own: the data words reads have returned to the host, newest first. -/
  replies : List Word
  /-- The model's own: how many free values have been drawn. -/
  draws : Nat
  deriving DecidableEq, Repr

/-- Why the machine stops with a fault. -/
inductive Fault where
  /-- Raised by `hostEvent` for an access that rules R40 and R41 give a bus error: a fault of the host
  program that no later step clears (rule R42). Safe: the spec itself says a model treats it so. -/
  | busError
  deriving DecidableEq, Repr

/-- Why the machine refuses to go on. -/
inductive Refusal where
  /-- Raised by `exec` alone, for a command that has no meaning yet. Safe. No arm uses it. -/
  | notModelled (mnemonic : String)
  /-- Raised by `hostEvent` for an access while reset is asserted: the block gives no response to it
  (rule R121), and a model must not issue one (U10). Safe. -/
  | accessDuringReset
  deriving DecidableEq, Repr

/-- Rules R36 and R120: every element's reset value. Nothing is in progress, and the host has done
nothing yet. -/
def State.reset : State where
  lanes := Lanes.zero
  buf := []
  phase := .absorbing
  cursor := 0
  cfg := false
  var := .shake128
  err := .ok
  sticky := false
  busy := none
  din := 0
  dout := 0
  rnd := 0
  resetLine := false
  events := []
  replies := []
  draws := 0

end Sys2Proof.Machine
end

