-- ==== Sys2Proof/Machine/Operands.lean ====
section
/-! DEFINITION. The operands of the commands: the rate the variant selects, the bytes of DIN and DOUT, the
byte view of S, and the blocks that go into it. -/

namespace Sys2Proof.Machine

/-- RATE(V), in bytes (rules R5, R26 and R100: the XOF multiplexer). -/
def rate : Variant → Nat
  | .shake128 => 168
  | .shake256 => 136

/-- CAP(V) = 200 - RATE(V), in bytes (rules R5 and R26). -/
def cap (v : Variant) : Nat := 200 - rate v

/-- `rate` written alone: RATE(VAR) (rule R14). -/
def State.rate (s : State) : Nat := Machine.rate s.var

/-- The bytes of DIN that ABSORB N takes, low byte first (rule R47). -/
def dinBytes (n : Nat) (din : Word) : List Byte :=
  (List.range n).map fun k => din.extractLsb' (8 * k) 8

/-- Output bytes as the word DOUT takes: byte `k` in bits `8k+7:8k`, the other bytes zero (rule R48). -/
def packWord : List Byte → Word
  | [] => 0
  | b :: bs => b.setWidth 32 ||| (packWord bs <<< 8)

/-- Eight bytes as a lane, the first in the low bits (rule R19). -/
def packLane (b : Nat → Byte) : Lane :=
  b 7 ++ b 6 ++ b 5 ++ b 4 ++ b 3 ++ b 2 ++ b 1 ++ b 0

/-- S_byte[i], the byte view of S (rule R19): little-endian byte `i mod 8` of lane `i div 8`.
There is no byte 200 or above; no rule asks for one. -/
def stateByte (A : Lanes) (i : Nat) : Byte :=
  ((A[i / 8]?).getD 0).extractLsb' (8 * (i % 8)) 8

/-- XOR_BLOCK (rule R82): byte `j` of the block is XORed into S_byte[j]. The bytes of S past the block
are unchanged, since a byte the block does not have counts as zero. -/
def xorBlock (A : Lanes) (p : List Byte) : Lanes :=
  Vector.ofFn fun n : Fin 25 => A[n] ^^^ packLane fun k => p.getD (8 * n.val + k) 0

/-- PAD (rule R84, the byte form), for the rate `r`: the suffix 1111 and the first pad 1 as the byte 0x1F,
zeros, and the trailing 1 in bit 7 of the last byte. The suffix is the constant SUFFIX of rule R27. -/
def pad (r : Nat) (buf : List Byte) : List Byte :=
  (buf ++ [0x1F#8] ++ List.replicate (r - buf.length - 1) 0).modify (r - 1) (· ^^^ 0x80)

end Sys2Proof.Machine
end

