-- ==== Sys2Proof/Machine/Flags.lean ====
section
/-! DEFINITION. The STATUS register (rule R34) and the checks that choose ERR (rule R110). -/

namespace Sys2Proof.Machine

/-- A one-bit field as a word. -/
def bitWord (b : Bool) : Word := if b then 1 else 0

/-- PHASE in STATUS: 0 is ABSORBING, 1 is SQUEEZING (rules R22 and R34). -/
def phaseCode : Phase → Word
  | .absorbing => 0
  | .squeezing => 1

/-- ERR in STATUS (rules R28, R34 and R104). -/
def errWord : ErrCode → Word
  | .ok => 0
  | .illegalCmd => 1
  | .notInit => 2
  | .invalidState => 3

/-- What a STATUS read returns while BUSY = 0 (rule R34). -/
def statusWord (s : State) : Word :=
  (BitVec.ofNat 32 s.cursor <<< 16) ||| (BitVec.ofNat 32 s.buf.length <<< 8) |||
    (bitWord s.sticky <<< 6) ||| (errWord s.err <<< 4) ||| (phaseCode s.phase <<< 3) |||
    (variantCode s.var <<< 2) ||| (bitWord s.cfg <<< 1)

/-- What a STATUS read returns while BUSY = 1: bit 0 is 1, and bits 31:1 are the free value of the draw
(rules R34 and R127). -/
def busyStatusWord (draw : Nat) : Word := Config.busyStatusBits draw ++ 1#1

/-- `check(cmd)` (rule R110): the first check that fails, in the order ILLEGAL_CMD, NOT_INIT,
INVALID_STATE. A term of `Instr` that is no legal command is ILLEGAL (rule R105). -/
def check (i : Instr) (s : State) : ErrCode :=
  if i.wf = false then .illegalCmd
  else match i with
    | .nop => .ok
    | .init _ => .ok
    | .absorb _ =>
      if s.cfg = false then .notInit
      else if s.phase = .squeezing then .invalidState
      else .ok
    | .squeeze _ => if s.cfg = false then .notInit else .ok

end Sys2Proof.Machine
end

