-- ==== Sys2Proof/Machine/Ops.lean ====
section
/-! DEFINITION. The named operations every command shares: reporting an outcome, raising an error (the
block's only exception mechanism, rules R103 and R111), the command frame (rule R94), accepting and
completing a command, returning read data, and reset (rule R120). -/

namespace Sys2Proof.Machine

/-- ERR <- code (rule R28). -/
def setErr (c : ErrCode) (s : State) : State := { s with err := c }

/-- `raise Err(code)` (rules R12, R103 and R111): ERR <- code and STICKY <- 1, and nothing else. No vector
is taken, no state is saved and no mode changes; the block has no return from it (rule R112). -/
def raiseErr (c : ErrCode) (s : State) : State := { s with err := c, sticky := true }

/-- Acceptance of a CMD write (rule R43): BUSY <- 1. How many host accesses will see it is a free value
(rule R127). -/
def accept (w : Word) (s : State) : State :=
  { s with busy := some ⟨w, Config.busyReads s.draws⟩, draws := s.draws + 1 }

/-- BUSY <- 0: the command is complete (rule R43). -/
def finish (s : State) : State := { s with busy := none }

/-- The command frame (rule R94) from the checks on: a failing command raises its error and changes nothing
else; a command that passes performs its effect and sets ERR <- OK. BUSY <- 0 happens together with the
effects (rule R126). -/
def runCommand (i : Instr) (perform : State → State) (s : State) : State :=
  match check i s with
  | .ok => finish (setErr .ok (perform s))
  | c => finish (raiseErr c s)

/-- A command word that decodes to ILLEGAL (rules R62 and R105): it completes with ILLEGAL_CMD. -/
def rejectIllegal (s : State) : State := finish (raiseErr .illegalCmd s)

/-- A read returns a data word to the host. -/
def reply (w : Word) (s : State) : State := { s with replies := w :: s.replies }

/-- A STATUS read while BUSY = 1 (rule R127): its word is a free value but for bit 0, and the command may be
seen busy once less. -/
def replyBusyStatus (c : InFlight) (s : State) : State :=
  { reply (busyStatusWord s.draws) s with
    draws := s.draws + 1
    busy := some { c with busyReads := c.busyReads - 1 } }

/-- Every state element takes its reset value (rules R36 and R120); a command in progress is abandoned. What
lies outside the block stays: the reset input, the host's pending and past accesses, and the number of
draws. -/
def resetElements (s : State) : State :=
  { State.reset with
    resetLine := s.resetLine
    events := s.events
    replies := s.replies
    draws := s.draws }

/-- The reset input is driven high or low (rule R120). The elements hold their reset values while it is
high and when it is released. -/
def driveReset (asserted : Bool) (s : State) : State :=
  if asserted || s.resetLine then { resetElements s with resetLine := asserted } else s

end Sys2Proof.Machine
end

