-- ==== Sys2Proof/Machine/Permutation.lean ====
section
/-! DEFINITION. The permutation core, Keccak-f[1600] (rules R69 to R80). Index arithmetic on `x` and `y` is
that of `Fin 5`, so it is taken mod 5 (rule R8). -/

namespace Sys2Proof.Machine

/-- ROTL64 (rule R9). -/
def rotl64 (v : Lane) (n : Nat) : Lane :=
  if n = 0 then v else (v <<< n) ||| (v >>> (64 - n))

/-- A[x, y], lane number `x + 5*y` (rule R11). -/
def laneAt (A : Lanes) (x y : Fin 5) : Lane := A[x.val + 5 * y.val]

/-- The lane array whose lane A[x, y] is `f x y`, written out in lane-number order. -/
def lanesOf (f : Fin 5 → Fin 5 → Lane) : Lanes :=
  #v[f 0 0, f 1 0, f 2 0, f 3 0, f 4 0,
     f 0 1, f 1 1, f 2 1, f 3 1, f 4 1,
     f 0 2, f 1 2, f 2 2, f 3 2, f 4 2,
     f 0 3, f 1 3, f 2 3, f 3 3, f 4 3,
     f 0 4, f 1 4, f 2 4, f 3 4, f 4 4]

/-- One lane per column `x`. -/
def columns (f : Fin 5 → Lane) : Vector Lane 5 := #v[f 0, f 1, f 2, f 3, f 4]

/-- `C` of theta: the parity of each column (rule R71). -/
def thetaC (A : Lanes) : Vector Lane 5 :=
  columns fun x => laneAt A x 0 ^^^ laneAt A x 1 ^^^ laneAt A x 2 ^^^ laneAt A x 3 ^^^ laneAt A x 4

/-- `D` of theta (rule R71). -/
def thetaD (C : Vector Lane 5) : Vector Lane 5 :=
  columns fun x => C[x - 1] ^^^ rotl64 C[x + 1] 1

/-- theta, the bit-plane parity mixing (rule R71). -/
def theta (A : Lanes) : Lanes :=
  let D := thetaD (thetaC A)
  lanesOf fun x y => laneAt A x y ^^^ D[x]

/-- The rotation offsets r[x, y] in lane-number order (rule R73). -/
def rhoTable : Vector Nat 25 :=
  #v[ 0,  1, 62, 28, 27,
     36, 44,  6, 55, 20,
      3, 10, 43, 25, 39,
     41, 45, 15, 21,  8,
     18,  2, 61, 56, 14]

/-- r[x, y] (rule R73). -/
def rhoOffset (x y : Fin 5) : Nat := rhoTable[x.val + 5 * y.val]

/-- rho, the lane rotation (rule R72). -/
def rho (A : Lanes) : Lanes := lanesOf fun x y => rotl64 (laneAt A x y) (rhoOffset x y)

/-- pi, the bit-plane permutation (rule R74): A'[x,y] = A[(x + 3y) mod 5, x]. -/
def piStep (A : Lanes) : Lanes := lanesOf fun x y => laneAt A (x + 3 * y) x

/-- chi, the nonlinear combination (rule R75). -/
def chi (A : Lanes) : Lanes :=
  lanesOf fun x y => laneAt A x y ^^^ (~~~ laneAt A (x + 1) y &&& laneAt A (x + 2) y)

/-- Rule R76's table, row by row as it stands there: row `i` holds RC[i] and RC[i + 12]. -/
def roundConstantRows : Vector (Lane × Lane) 12 :=
  #v[(0x0000000000000001, 0x000000008000808B),
     (0x0000000000008082, 0x800000000000008B),
     (0x800000000000808A, 0x8000000000008089),
     (0x8000000080008000, 0x8000000000008003),
     (0x000000000000808B, 0x8000000000008002),
     (0x0000000080000001, 0x8000000000000080),
     (0x8000000080008081, 0x000000000000800A),
     (0x8000000000008009, 0x800000008000000A),
     (0x000000000000008A, 0x8000000080008081),
     (0x0000000000000088, 0x8000000000008080),
     (0x0000000080008009, 0x0000000080000001),
     (0x000000008000000A, 0x8000000080008008)]

/-- RC[ir], the left column of rule R76's table for the first 12 rounds and the right one for the rest. -/
def roundConstant (ir : Fin 24) : Lane :=
  if h : ir.val < 12 then roundConstantRows[ir.val].1 else roundConstantRows[ir.val - 12].2

/-- iota, the round-constant injection (rule R76). -/
def iota (A : Lanes) (ir : Fin 24) : Lanes := A.set 0 (A[0] ^^^ roundConstant ir)

/-- Rnd(A, ir) (rule R70). -/
def keccakRound (A : Lanes) (ir : Fin 24) : Lanes := iota (chi (piStep (rho (theta A)))) ir

/-- KeccakF (rule R69): the 24 rounds in order. Irreducible, so that no proof about the sponge unfolds it by
accident; `unfold keccakF` opens it. -/
@[irreducible] def keccakF (A : Lanes) : Lanes := (List.finRange 24).foldl keccakRound A

/-- PERMUTE (rules R13 and R77): S <- KeccakF(S), in one step; RND is 0 afterwards. -/
def permute (s : State) : State := { s with lanes := keccakF s.lanes, rnd := 0 }

end Sys2Proof.Machine
end

