-- ==== Sys2Proof/Machine/Sponge.lean ====
section
/-! DEFINITION. The sponge engine (rules R81 to R88): absorb, finalize with SHAKE padding, squeeze. None of
these operations has an error of its own. -/

namespace Sys2Proof.Machine

/-- One turn of ABSORB_BYTES' loop (rule R81): the first `rate` bytes of BUF go into S, S is permuted, and
BUF keeps the rest. -/
def absorbBlock (s : State) : State :=
  { permute { s with lanes := xorBlock s.lanes (s.buf.take s.rate) } with
    buf := s.buf.drop s.rate }

/-- ABSORB_BYTES' loop `while len(BUF) >= rate` (rule R81), at most `fuel` turns. -/
def absorbLoop : Nat → State → State
  | 0, s => s
  | fuel + 1, s => if s.rate ≤ s.buf.length then absorbLoop fuel (absorbBlock s) else s

/-- ABSORB_BYTES(m) (rule R81). A turn of the loop takes `rate` bytes from BUF, so `len(BUF) div rate` turns
are all there are. -/
def absorbBytes (m : List Byte) (s : State) : State :=
  let s₁ := { s with buf := s.buf ++ m }
  absorbLoop (s₁.buf.length / s₁.rate) s₁

/-- FINALIZE (rule R83): only the first call does anything. -/
def finalize (s : State) : State :=
  match s.phase with
  | .squeezing => s
  | .absorbing =>
    { permute { s with lanes := xorBlock s.lanes (pad s.rate s.buf) } with
      buf := []
      phase := .squeezing
      cursor := 0 }

/-- SQUEEZE_BYTES before it takes a byte (rule R86): a used-up output block is replaced by permuting. -/
def refill (s : State) : State :=
  if s.cursor = s.rate then { permute s with cursor := 0 } else s

/-- One byte of SQUEEZE_BYTES (rule R86): S_byte[CURSOR], and CURSOR moves on. -/
def squeezeByte (s : State) : Byte × State :=
  let s₁ := refill s
  (stateByte s₁.lanes s₁.cursor, { s₁ with cursor := s₁.cursor + 1 })

/-- SQUEEZE_BYTES(n) (rule R86): the bytes in stream order, and the state after them. -/
def squeezeBytes : Nat → State → List Byte × State
  | 0, s => ([], s)
  | n + 1, s =>
    let r := squeezeByte s
    let rs := squeezeBytes n r.2
    (r.1 :: rs.1, rs.2)

end Sys2Proof.Machine
end

