-- ==== Sys2Proof/Machine/Commands.lean ====
section
/-! DEFINITION. The four commands (rules R95 to R98), one meaning each, run in the frame of rule R94. -/

namespace Sys2Proof.Machine

/-- `perform(INIT V)` (rule R96): a new instance; DIN is not changed. -/
def performInit (v : Variant) (s : State) : State :=
  { s with
    lanes := Lanes.zero
    buf := []
    phase := .absorbing
    cursor := 0
    var := v
    cfg := true
    sticky := false
    dout := 0 }

/-- `perform(ABSORB N)` (rule R97): ABSORB_BYTES of the first N bytes of DIN. -/
def performAbsorb (n : Nat) (s : State) : State := absorbBytes (dinBytes n s.din) s

/-- `perform(SQUEEZE N)` (rule R98): FINALIZE, then SQUEEZE_BYTES(N) into DOUT. -/
def performSqueeze (n : Nat) (s : State) : State :=
  let r := squeezeBytes n (finalize s)
  { r.2 with dout := packWord r.1 }

/-- NOP (rule R95). -/
def execNop (s : State) : Host.Outcome State Fault Refusal := .next (runCommand .nop id s)

/-- INIT V (rule R96). -/
def execInit (v : Variant) (s : State) : Host.Outcome State Fault Refusal :=
  .next (runCommand (.init v) (performInit v) s)

/-- ABSORB N (rule R97). -/
def execAbsorb (n : Nat) (s : State) : Host.Outcome State Fault Refusal :=
  .next (runCommand (.absorb n) (performAbsorb n) s)

/-- SQUEEZE N (rule R98). -/
def execSqueeze (n : Nat) (s : State) : Host.Outcome State Fault Refusal :=
  .next (runCommand (.squeeze n) (performSqueeze n) s)

end Sys2Proof.Machine
end

