-- ==== Sys2Proof/Machine/Dispatch.lean ====
section
/-! DEFINITION. One arm per command. -/

namespace Sys2Proof.Machine

def exec (i : Instr) (s : State) : Host.Outcome State Fault Refusal :=
  match i with
  | .nop => Sys2Proof.Machine.execNop s
  | .init v => Sys2Proof.Machine.execInit v s
  | .absorb n => Sys2Proof.Machine.execAbsorb n s
  | .squeeze n => Sys2Proof.Machine.execSqueeze n s

end Sys2Proof.Machine
end

