-- ==== Sys2Proof/Machine/Window.lean ====
section
/-! DEFINITION. The register window (rules R38 to R56): which accesses reach which register, what each
register does, the stall while a command runs (rule R125), and the host's primitives (rule R12). -/

namespace Sys2Proof.Machine

/-- The four registers of the window (rule R39). -/
inductive Reg where
  | cmd
  | din
  | dout
  | status
  deriving DecidableEq, Repr

/-- The register at an offset (rule R39); none at the reserved offsets and between registers. -/
def regAt (off : Nat) : Option Reg :=
  if off = 0x00 then some .cmd
  else if off = 0x04 then some .din
  else if off = 0x08 then some .dout
  else if off = 0x0C then some .status
  else none

/-- The register an access reaches, or none where it gets a bus error: an access that is not 32 bits wide
or not at a multiple of 4 (rule R40), or one to a reserved offset (rule R41). -/
def Access.target (a : Access) : Option Reg :=
  if a.bytes ≠ 4 ∨ a.off.val % 4 ≠ 0 then none else regAt a.off.val

/-- What a register does when it is read or written (rules R43 to R46). Only a STATUS read can come while
BUSY = 1 (rule R125), and it then reads as rule R127 says. -/
def serve (r : Reg) (op : AccessOp) (s : State) : State :=
  match r, op with
  | .cmd, .read => reply 0 s
  | .cmd, .write w => accept w s
  | .din, .read => reply s.din s
  | .din, .write w => { s with din := w }
  | .dout, .read => reply s.dout s
  | .dout, .write _ => s
  | .status, .read =>
    match s.busy with
    | none => reply (statusWord s) s
    | some c => replyBusyStatus c s
  | .status, .write _ => s

/-- What one input from the outside world does to the block. -/
def hostEvent (e : HostEvent) (s : State) : Host.Outcome State Fault Refusal :=
  match e with
  | .resetInput asserted => .next (driveReset asserted s)
  | .access a =>
    if s.resetLine then .refused .accessDuringReset
    else match a.target with
      | none => .fault .busError
      | some r => .next (serve r a.op s)

/-- What is not held by the stall of rule R125 while BUSY = 1: a STATUS read, an access that gets its bus
error, and the reset input. -/
def answeredWhileBusy : HostEvent → Bool
  | .resetInput _ => true
  | .access a =>
    match a.target, a.op with
    | none, _ => true
    | some .status, .read => true
    | some _, _ => false

/-- The inputs after the reset input is driven high, where the outside world does that before any further access
reaches the block; releasing an input that is low comes to nothing. -/
def resetBehind : List HostEvent → Option (List HostEvent)
  | .resetInput true :: es => some es
  | .resetInput false :: es => resetBehind es
  | .access _ :: _ => none
  | [] => none

/-- What the block takes while BUSY = 1 and the command in progress has not completed, with the inputs left: the
next input, if the stall does not hold it; or, behind an access that it holds, the reset input driven high, which
abandons the command (rule R120). That held access gets no response (rule R121; log entry 21). -/
def takenWhileBusy : List HostEvent → Option (HostEvent × List HostEvent)
  | [] => none
  | e :: es =>
    if answeredWhileBusy e then some (e, es)
    else (resetBehind es).map fun rest => (.resetInput true, rest)

/-- The bus access that a host access at a byte address becomes, where the address lies in the window
at `base` (rule R38); none where it lies outside, and the block never sees it. -/
def busAccess (base : WindowBase) (addr bytes : Nat) (op : AccessOp) : Option Access :=
  if h : addr - base.addr < 32 ∧ base.addr ≤ addr then some ⟨⟨addr - base.addr, h.1⟩, bytes, op⟩
  else none

/-- A host access at a byte address is issued: the bus delivers it after the ones before it (rule R53). -/
def hostAccess (base : WindowBase) (addr bytes : Nat) (op : AccessOp) (s : State) : State :=
  match busAccess base addr bytes op with
  | some a => { s with events := s.events ++ [.access a] }
  | none => s

/-- `MemWrite(addr, bytes, v)` (rule R12), on the platform whose window is at P_BASE. -/
def memWrite (addr bytes : Nat) (v : Word) (s : State) : State :=
  hostAccess Config.pBase addr bytes (.write v) s

/-- `MemRead(addr, bytes)` (rule R12), on the platform whose window is at P_BASE. -/
def memRead (addr bytes : Nat) (s : State) : State := hostAccess Config.pBase addr bytes .read s

end Sys2Proof.Machine
end

