-- ==== Sys2Proof/Machine/Step.lean ====
section
/-! DEFINITION. One step of the block. With BUSY = 0 the block takes the host's next input, or stays idle
when there is none (rules R119 and R121). With BUSY = 1 it may take an input before the command in progress is
complete, a free number of times (rules R120, R125 and R127), and otherwise the command completes. -/

namespace Sys2Proof.Machine

/-- The command word in progress is decoded and runs to its end (rules R43 and R94). -/
def runWord (w : Word) (s : State) : Host.Outcome State Fault Refusal :=
  match decode w with
  | .ok i => exec i s
  | .error _ => .next (rejectIllegal s)

/-- What the block takes before the command `c` in progress completes, if anything: nothing once the free number
of rule R127 is used up. A reset input asserted while the command is in progress is such an input, whether it is
the host's next or stands behind an access the stall holds (rule R120): that number decides whether it comes before
the completion or after it (log entries 3, 16 and 21). -/
def taken (c : InFlight) (es : List HostEvent) : Option (HostEvent × List HostEvent) :=
  match takenWhileBusy es with
  | none => none
  | some p => if c.busyReads = 0 then none else some p

/-- One step. -/
def step (s : State) : Host.Outcome State Fault Refusal :=
  match s.busy with
  | none =>
    match s.events with
    | [] => .next s
    | e :: es => hostEvent e { s with events := es }
  | some c =>
    match taken c s.events with
    | some (e, es) => hostEvent e { s with events := es }
    | none => runWord c.word s

/-- `s` with the command word `w` in progress and due to complete: BUSY = 1, the word where `step` fetches
the command it runs, and no further access to be answered before it. -/
def State.withFetchWord (s : State) (nbits w : Nat) : State :=
  { s with busy := some ⟨BitVec.ofNat 32 (w % 2 ^ nbits), 0⟩ }

end Sys2Proof.Machine
end

