-- ==== Sys2Proof/Machine/HostProgram.lean ====
section
/-! DEFINITION. The host's side: the bus operations of rule R65 and the pseudo-instructions of rule R66, as
the accesses they put on the bus, in order. The block knows none of them; the step never uses them. `WAIT` alone
depends on what the block answers, so it is also given as a run (`wait`). -/

namespace Sys2Proof.Machine

/-- `WR CMD, 0x<hex>` (rule R65): a raw word. -/
def wrCmdWord (w : Word) : Access := ⟨0x00, 4, .write w⟩

/-- `WR CMD, <command>` (rule R65). -/
def wrCmd (i : Instr) : Access := wrCmdWord (encode i)

/-- `WR DIN, w` (rule R65). -/
def wrDin (w : Word) : Access := ⟨0x04, 4, .write w⟩

/-- `RD DOUT` (rule R65). -/
def rdDout : Access := ⟨0x08, 4, .read⟩

/-- `RD STATUS` (rule R65). -/
def rdStatus : Access := ⟨0x0C, 4, .read⟩

/-- `ABSORBW N, w` (rule R66). -/
def absorbW (n : Nat) (w : Word) : List Access := [wrDin w, wrCmd (.absorb n)]

/-- `SQUEEZEW N -> r` (rule R66). -/
def squeezeW (n : Nat) : List Access := [wrCmd (.squeeze n), rdDout]

/-- The accesses of `WAIT` (rule R66), when the host's loop ends after its `k`-th STATUS read; `wait` says when
that is. -/
def waitReads (k : Nat) : List Access := List.replicate k rdStatus

/-- The ABSORBW steps of `UPDATE` (rule R66): four bytes each, then the bytes left over. -/
def updateWords : List Byte → List Access
  | b₀ :: b₁ :: b₂ :: b₃ :: rest => absorbW 4 (packWord [b₀, b₁, b₂, b₃]) ++ updateWords rest
  | [] => []
  | [b₀] => absorbW 1 (packWord [b₀])
  | [b₀, b₁] => absorbW 2 (packWord [b₀, b₁])
  | [b₀, b₁, b₂] => absorbW 3 (packWord [b₀, b₁, b₂])

/-- `UPDATE b` (rule R66): an empty string is one ABSORB 0. -/
def update (b : List Byte) : List Access :=
  if b = [] then [wrCmd (.absorb 0)] else updateWords b

/-- The counts of the SQUEEZEs that `READ n` issues for n > 0 (rule R66). -/
def readCounts (n : Nat) : List Nat :=
  List.replicate (n / 4) 4 ++ if n % 4 = 0 then [] else [n % 4]

/-- `READ n` (rule R66): reading nothing is one SQUEEZE 0. -/
def readAccesses (n : Nat) : List Access :=
  if n = 0 then [wrCmd (.squeeze 0)] else (readCounts n).flatMap squeezeW

/-- `NEW V` (rule R66). -/
def newInstance (v : Variant) : List Access := [wrCmd (.init v)]

/-- `NEW V, b` (rule R66). -/
def newSeeded (v : Variant) (b : List Byte) : List Access := newInstance v ++ update b

/-- `s` with these accesses as all that the host does next. -/
def State.withAccesses (s : State) (as : List Access) : State := { s with events := as.map .access }

/-- The host issues one access and the block steps until it has answered it: one step, or two where the command
in progress completes first. -/
def answer (a : Access) (s : State) : Host.Outcome State Fault Refusal :=
  match step (s.withAccesses [a]) with
  | .next t => if t.events = [] then .next t else step t
  | .fault r => .fault r
  | .refused r => .refused r

/-- `t[0] = 0` for the word `t` the last read returned (rule R66). -/
def lastReadIdle (s : State) : Bool :=
  match s.replies with
  | [] => false
  | t :: _ => !t.getLsbD 0

/-- `repeat RD STATUS -> t until t[0] = 0` (rule R66), at most `fuel` turns. -/
def waitLoop : Nat → State → Host.Outcome State Fault Refusal
  | 0, s => .next s
  | fuel + 1, s =>
    match answer rdStatus s with
    | .next t => if lastReadIdle t then .next t else waitLoop fuel t
    | .fault r => .fault r
    | .refused r => .refused r

/-- `WAIT` (rule R66), as the host runs it: it reads STATUS and looks at bit 0 of the word read, until that is 0.
The command in progress is seen busy at most its drawn number of times (rule R127), so one turn more is all there
are. -/
def wait (s : State) : Host.Outcome State Fault Refusal :=
  waitLoop ((match s.busy with | none => 0 | some c => c.busyReads) + 1) s

end Sys2Proof.Machine
end

