-- ==== Sys2Proof/Machine/Reference.lean ====
section
/-! DEFINITION. The spec's other forms of what the model computes, which no step uses: the generators of the
two Keccak tables (rules R73 and R78), padding as bits (rule R84), the closed form of the output stream
(rule R92) and the buffer kept inside S (rule R93). Statements hold the model against them. -/

namespace Sys2Proof.Machine

/-- The walk of rule R73: the lane position at step `t`, from (1, 0) by (x, y) <- (y, 2x + 3y). -/
def rhoWalk : Nat → Fin 5 × Fin 5
  | 0 => (1, 0)
  | t + 1 => ((rhoWalk t).2, 2 * (rhoWalk t).1 + 3 * (rhoWalk t).2)

/-- The offset rule R73 sets at step `t` of the walk. -/
def rhoWalkOffset (t : Nat) : Nat := (t + 1) * (t + 2) / 2 % 64

/-- One turn of the LFSR of rule R78; bit `i` of the vector is R[i]. -/
def lfsrStep (r : BitVec 8) : BitVec 8 :=
  let r₉ : BitVec 9 := r.setWidth 9 <<< 1
  let r₉ := if r₉.getLsbD 8 then r₉ ^^^ 0b001110001 else r₉
  r₉.setWidth 8

/-- The LFSR after `t` turns from 10000000 (R[0] = 1). -/
def lfsr : Nat → BitVec 8
  | 0 => 1
  | t + 1 => lfsrStep (lfsr t)

/-- rc(t) (rule R78). -/
def rcBit (t : Nat) : Bool := (lfsr (t % 255)).getLsbD 0

/-- RC[ir] as rule R78 generates it: bit `2^j - 1` is rc(j + 7*ir) for j = 0..6, the others 0. -/
def generatedConstant (ir : Nat) : Lane :=
  (List.range 7).foldl
    (fun v j => if rcBit (j + 7 * ir) then v ||| (1 <<< (2 ^ j - 1)) else v) 0

/-- The bits of a byte string, bit 0 of each byte first (rule R20). -/
def bitsOf (p : List Byte) : List Bool :=
  p.flatMap fun b => (List.range 8).map fun j => b.getLsbD j

/-- PADbits (rule R84): the message bits, the suffix 1111, a 1, `k` zeros and a 1. -/
def padBits (r : Nat) (buf : List Byte) : List Bool :=
  bitsOf buf ++ [true, true, true, true] ++ [true] ++
    List.replicate (8 * r - 8 * buf.length - 6) false ++ [true]

/-- S_i of rule R92, for i up to `len(M) div r`: the state after `i` full blocks of the message. -/
def absorbedState (r : Nat) (m : List Byte) : Nat → Lanes
  | 0 => Lanes.zero
  | i + 1 => keccakF (xorBlock (absorbedState r m i) ((m.drop (i * r)).take r))

/-- S_{q+1} of rule R92: the state after the padded last block. -/
def paddedState (r : Nat) (m : List Byte) : Lanes :=
  keccakF (xorBlock (absorbedState r m (m.length / r)) (pad r (m.drop (m.length / r * r))))

/-- KeccakF applied `k` times. -/
def keccakIter : Nat → Lanes → Lanes
  | 0, A => A
  | k + 1, A => keccakIter k (keccakF A)

/-- Z[d] of rule R92: byte `d` of the output stream for the message `m`. -/
def streamByte (v : Variant) (m : List Byte) (d : Nat) : Byte :=
  stateByte (keccakIter (d / rate v) (paddedState (rate v) m)) (d % rate v)

/-- Bytes `d` to `d + n` of the output stream. -/
def streamBytes (v : Variant) (m : List Byte) (d n : Nat) : List Byte :=
  (List.range n).map fun k => streamByte v m (d + k)

/-- S_byte[j] <- S_byte[j] ^ b, one byte alone. -/
def xorByteAt (A : Lanes) (j : Nat) (b : Byte) : Lanes := xorBlock A (List.replicate j 0 ++ [b])

/-- Rule R93's state: S* = S XOR (BUF ++ zeros), with len(BUF). -/
def inPlace (s : State) : Lanes × Nat := (xorBlock s.lanes s.buf, s.buf.length)

/-- One byte of ABSORB_BYTES in rule R93's form. -/
def inPlaceAbsorb (r : Nat) (a : Lanes × Nat) (b : Byte) : Lanes × Nat :=
  let A := xorByteAt a.1 a.2 b
  if a.2 + 1 = r then (keccakF A, 0) else (A, a.2 + 1)

/-- FINALIZE in rule R93's form. -/
def inPlaceFinalize (r : Nat) (a : Lanes × Nat) : Lanes :=
  keccakF (xorByteAt (xorByteAt a.1 a.2 0x1F) (r - 1) 0x80)

end Sys2Proof.Machine
end

