-- ==== Sys2Proof/Safety.lean ====
section
/-! DEFINITION. What the claims call a good state and a well-behaved host: the invariant of rule R37, and
inputs that get no bus error and leave the block alone during reset. -/

namespace Sys2Proof.Machine

/-- Rule R37, clauses 1 to 4. The spec asks it between commands; in this model it holds while BUSY = 1 too,
since a command's effects take place together with BUSY <- 0. -/
abbrev State.SpongeInv (s : State) : Prop :=
  (s.cfg = false → s.lanes = Lanes.zero ∧ s.buf = [] ∧ s.phase = .absorbing ∧ s.cursor = 0 ∧
    s.var = .shake128 ∧ s.dout = 0) ∧
  (s.phase = .absorbing → s.buf.length < s.rate ∧ s.cursor = 0) ∧
  (s.phase = .squeezing → s.cfg = true ∧ s.buf = [] ∧ s.cursor ≤ s.rate) ∧
  s.rate + cap s.var = 200

/-- RND rests at 0 between permutations (rule R77), and while the reset input is high every element has its
reset value (rule R120). -/
abbrev State.CoreInv (s : State) : Prop :=
  s.rnd = 0 ∧ (s.resetLine = true → s = resetElements s)

/-- The invariant of the model. -/
abbrev State.Inv (s : State) : Prop := s.SpongeInv ∧ s.CoreInv

/-- A host whose pending accesses get no bus error (rules R40 and R41), and come only while the reset input
is low (rule R121); `line` is the input's present level. -/
def hostLegal : Bool → List HostEvent → Bool
  | _, [] => true
  | _, .resetInput asserted :: es => hostLegal asserted es
  | line, .access a :: es => !line && a.target.isSome && hostLegal line es

/-- Every pending input of this state is one a well-behaved host gives. -/
abbrev State.HostLegal (s : State) : Prop := hostLegal s.resetLine s.events = true

/-- The engine's elements and registers agree in two states: all of rule R17 but BUSY. -/
abbrev State.SameElements (s t : State) : Prop :=
  t.lanes = s.lanes ∧ t.buf = s.buf ∧ t.phase = s.phase ∧ t.cursor = s.cursor ∧ t.cfg = s.cfg ∧
  t.var = s.var ∧ t.err = s.err ∧ t.sticky = s.sticky ∧ t.din = s.din ∧ t.dout = s.dout ∧ t.rnd = s.rnd

/-- The command `c` in progress completes at the next step: the block takes nothing before it, because the free
number of rule R127 is used up, because the host's next input is one the stall holds with no reset behind it (rules
R120 and R125), or because there is none. -/
abbrev State.Due (s : State) (c : InFlight) : Prop :=
  s.busy = some c ∧ (c.busyReads = 0 ∨ takenWhileBusy s.events = none)

/-- The next step takes the input `e` and leaves `es`: it is the host's next with BUSY = 0; or BUSY = 1, the free
number of rule R127 is not used up, and it is the host's next that the stall does not hold or a reset behind an
access that it holds. -/
abbrev State.Takes (s : State) (e : HostEvent) (es : List HostEvent) : Prop :=
  (s.busy = none ∧ s.events = e :: es) ∨
    ∃ c, s.busy = some c ∧ 0 < c.busyReads ∧ takenWhileBusy s.events = some (e, es)

/-- What the commands since an INIT have asked for: the bytes absorbed, and the bytes squeezed once
squeezing has begun (rule R91). -/
structure History where
  message : List Byte
  squeezed : Option Nat
  deriving DecidableEq, Repr

/-- One command with the DIN word the host has written before it. An ABSORB after squeezing has begun, an
illegal count and a NOP ask for nothing (rules R91 and R109). -/
def History.add (h : History) (p : Word × Instr) : History :=
  match p.2 with
  | .absorb n =>
    if h.squeezed = none ∧ n ≤ maxCount then { h with message := h.message ++ dinBytes n p.1 } else h
  | .squeeze n => if n ≤ maxCount then { h with squeezed := some (h.squeezed.getD 0 + n) } else h
  | .nop => h
  | .init _ => ⟨[], none⟩

/-- The commands of a list run one after the other, each after a write of its DIN word. -/
def runCommands : List (Word × Instr) → State → Host.Outcome State Fault Refusal
  | [], s => .next s
  | p :: l, s =>
    match exec p.2 { s with din := p.1 } with
    | .next t => runCommands l t
    | .fault r => .fault r
    | .refused r => .refused r

end Sys2Proof.Machine
end

