-- ==== Sys2Proof/Certificates/Slice0/Obligations.lean ====
section
/-! DEFINITION. The statements for the provers. Each docstring names the rule of `spec/` it formalises. -/

open Sys2Proof Sys2Proof.Machine

/-! ### Reset -/

/-- Rule R36: the reset value of every element, and the first STATUS read after reset. -/
def Obligations.ResetValues : Prop :=
  State.reset.lanes = Vector.replicate 25 0#64 ∧ State.reset.buf = [] ∧
  State.reset.phase = .absorbing ∧ State.reset.cursor = 0 ∧ State.reset.cfg = false ∧
  State.reset.var = .shake128 ∧ State.reset.err = .ok ∧ State.reset.sticky = false ∧
  State.reset.busy = none ∧ State.reset.din = 0 ∧ State.reset.dout = 0 ∧ State.reset.rnd = 0 ∧
  step { State.reset with events := [.access ⟨0x0C, 4, .read⟩] } =
    .next { State.reset with replies := [0x00000000#32] }

/-- Rule R37 at reset. -/
def Obligations.ResetMeetsTheInvariant : Prop := State.reset.Inv

/-- Rule R37 (derived by the spec), with RND at rest (log entry 12) and the elements held at reset while the reset
input is high (rule R120; log entry 16): every step keeps it. -/
def Obligations.StepKeepsTheInvariant : Prop :=
  ∀ s t : State, s.Inv → step s = .next t → t.Inv

/-- Rule R120: driving or releasing the reset input sets every element to its reset value, and abandons a
command in progress, also where the input stands behind an access the stall holds. That such an access is then gone
without a response is the model's choice (log entry 21). -/
def Obligations.ResetInputResetsEveryElement : Prop :=
  ∀ (s : State) (asserted : Bool) (es : List HostEvent),
    s.Takes (.resetInput asserted) es → (asserted = true ∨ s.resetLine = true) →
    step s = .next { State.reset with
      resetLine := asserted, events := es, replies := s.replies, draws := s.draws }

/-- Rule R121 and U10 (the model's refusal: log entry 6): an access while reset is asserted gets no
response. -/
def Obligations.AccessDuringResetIsRefused : Prop :=
  ∀ (s : State) (a : Access) (es : List HostEvent),
    s.events = .access a :: es → s.busy = none → s.resetLine = true →
    step s = .refused .accessDuringReset

/-- Rules R119 and R121: with no command and no access the block keeps every element. -/
def Obligations.IdleBlockKeepsItsState : Prop :=
  ∀ s : State, s.busy = none → s.events = [] → step s = .next s

/-! ### Encoding -/

/-- Words written out from rules R58 to R60, field by field (RSV, ARG, OPC). -/
def Obligations.CommandWordsDecode : Prop :=
  decode (0b0000000000000000000000000#25 ++ 0b000#3 ++ 0b0000#4) = .ok .nop ∧
  decode (0b0000000000000000000000000#25 ++ 0b000#3 ++ 0b0001#4) = .ok (.init .shake128) ∧
  decode (0b0000000000000000000000000#25 ++ 0b001#3 ++ 0b0001#4) = .ok (.init .shake256) ∧
  decode (0b0000000000000000000000000#25 ++ 0b011#3 ++ 0b0010#4) = .ok (.absorb 3) ∧
  decode (0b0000000000000000000000000#25 ++ 0b100#3 ++ 0b0011#4) = .ok (.squeeze 4)

/-- Rule R67, which the spec derives from rule R61: the 13 legal words, and no other word decodes to a
command. -/
def Obligations.LegalWordsAreTheThirteen : Prop :=
  ∀ (w : Word) (i : Instr), decode w = .ok i ↔
    (w, i) ∈ ([(0x00000000, .nop), (0x00000001, .init .shake128), (0x00000011, .init .shake256),
      (0x00000002, .absorb 0), (0x00000012, .absorb 1), (0x00000022, .absorb 2),
      (0x00000032, .absorb 3), (0x00000042, .absorb 4),
      (0x00000003, .squeeze 0), (0x00000013, .squeeze 1), (0x00000023, .squeeze 2),
      (0x00000033, .squeeze 3), (0x00000043, .squeeze 4)] : List (Word × Instr))

/-- Rule R65: decoding an encoded command gives it back, for every well-formed command. -/
def Obligations.DecodeOfEncode : Prop :=
  ∀ i : Instr, i.WellFormed → decode (encode i) = .ok i

/-- Rule R68, which the spec derives from rule R61: the mask and match of each command, with the side condition
N <= 4. -/
def Obligations.MaskAndMatchOfEachCommand : Prop :=
  ∀ w : Word,
    (decode w = .ok .nop ↔ w &&& 0xFFFFFFFF = 0x00000000) ∧
    (∀ v : Variant, decode w = .ok (.init v) ↔
      w &&& 0xFFFFFFEF = 0x00000001 ∧ (v = .shake256 ↔ w.getLsbD 4 = true)) ∧
    (∀ n : Nat, decode w = .ok (.absorb n) ↔
      w &&& 0xFFFFFF8F = 0x00000002 ∧ (w.extractLsb' 4 3).toNat = n ∧ n ≤ 4) ∧
    (∀ n : Nat, decode w = .ok (.squeeze n) ↔
      w &&& 0xFFFFFF8F = 0x00000003 ∧ (w.extractLsb' 4 3).toNat = n ∧ n ≤ 4)

/-! ### Running a command -/

/-- Rules R43 and R94: when the command in progress completes, the step is the command its word decodes to.
Which step that is, is log entries 2 and 3's. -/
def Obligations.StepRunsTheDecodedCommand : Prop :=
  ∀ (s : State) (c : InFlight) (i : Instr),
    s.Due c → decode c.word = .ok i → step s = exec i s

/-- Rule R62: a word that decodes to ILLEGAL completes with ERR = ILLEGAL_CMD and STICKY = 1, in every
state, and changes nothing else. -/
def Obligations.IllegalWordRunsNothing : Prop :=
  ∀ (s : State) (c : InFlight) (r : IllegalWord),
    s.Due c → decode c.word = .error r →
    step s = .next { s with err := .illegalCmd, sticky := true, busy := none }

/-- Rule R105: a completing word raises ILLEGAL_CMD exactly when it has a reserved opcode, a nonzero bit in
`w[31:7]`, or an argument outside rule R60's legal values, whatever the state. -/
def Obligations.IllegalCmdIsRaisedExactly : Prop :=
  ∀ (s : State) (c : InFlight), s.Due c →
    ∃ t, step s = .next t ∧
      (t.err = .illegalCmd ↔
        4 ≤ c.word.toNat % 16 ∨ c.word.toNat / 128 ≠ 0 ∨
        (c.word.toNat % 16 = 0 ∧ c.word.toNat / 16 % 8 ≠ 0) ∨
        (c.word.toNat % 16 = 1 ∧ 1 < c.word.toNat / 16 % 8) ∨
        (c.word.toNat % 16 = 2 ∧ 4 < c.word.toNat / 16 % 8) ∨
        (c.word.toNat % 16 = 3 ∧ 4 < c.word.toNat / 16 % 8))

/-- Rule R95: NOP completes in every state, writes ERR <- 0 alone, and its word is 0. -/
def Obligations.NopCompletes : Prop :=
  (∀ s : State, exec .nop s = .next { s with err := .ok, busy := none }) ∧
  encode .nop = 0x00000000

/-- Rule R96: INIT V completes in every state and starts a new instance; DIN is not changed. -/
def Obligations.InitCompletes : Prop :=
  ∀ (v : Variant) (s : State), exec (.init v) s = .next { s with
    lanes := Vector.replicate 25 0#64
    buf := []
    phase := .absorbing
    cursor := 0
    var := v
    cfg := true
    sticky := false
    dout := 0
    err := .ok
    busy := none }

/-- Rules R97, R81 and R47: ABSORB N that leaves BUF short of the rate appends the first N bytes of DIN. -/
def Obligations.AbsorbAppendsToBuffer : Prop :=
  ∀ (n : Nat) (s : State), n ≤ 4 → s.cfg = true → s.phase = .absorbing →
    s.buf.length + n < s.rate →
    exec (.absorb n) s = .next { s with
      buf := s.buf ++ (List.range n).map (fun k => s.din.extractLsb' (8 * k) 8)
      err := .ok
      busy := none }

/-- Rules R97(b), R81, R82 and R132: ABSORB N that reaches the rate absorbs one block, permutes once, and
keeps the `len(BUF) + N - rate` bytes left over. -/
def Obligations.AbsorbTakesOneBlock : Prop :=
  ∀ (n : Nat) (s : State), n ≤ 4 → s.cfg = true → s.phase = .absorbing →
    s.buf.length < s.rate → s.rate ≤ s.buf.length + n →
    ∃ all rest : List Byte,
      all = s.buf ++ (List.range n).map (fun k => s.din.extractLsb' (8 * k) 8) ∧
      rest = all.drop s.rate ∧ rest.length = s.buf.length + n - s.rate ∧
      exec (.absorb n) s = .next { s with
        lanes := keccakF (xorBlock s.lanes (all.take s.rate))
        rnd := 0
        buf := rest
        err := .ok
        busy := none }

/-- Rules R98, R83, R85, R86 and R132: the first SQUEEZE N of an instance pads, permutes once, and delivers
the first N bytes of the new state, with DOUT's other bytes zero. -/
def Obligations.FirstSqueezeFinalizes : Prop :=
  ∀ (n : Nat) (s : State), n ≤ 4 → s.cfg = true → s.phase = .absorbing →
    ∃ A : Lanes, A = keccakF (xorBlock s.lanes (pad s.rate s.buf)) ∧
      exec (.squeeze n) s = .next { s with
        lanes := A
        rnd := 0
        buf := []
        phase := .squeezing
        cursor := n
        dout := packWord ((List.range n).map (stateByte A))
        err := .ok
        busy := none }

/-- Rules R98, R86(a), R86(b) and R132: SQUEEZE N served by the unread bytes of the output block does not
permute, even when it takes the last of them. -/
def Obligations.SqueezeWithinTheBlock : Prop :=
  ∀ (n : Nat) (s : State), n ≤ 4 → s.cfg = true → s.phase = .squeezing →
    s.cursor + n ≤ s.rate →
    exec (.squeeze n) s = .next { s with
      cursor := s.cursor + n
      dout := packWord ((List.range n).map fun k => stateByte s.lanes (s.cursor + k))
      err := .ok
      busy := none }

/-- Rules R98, R86 and R132: SQUEEZE N that needs more bytes than the output block has left drains it,
permutes once, and goes on from the start of the new block. -/
def Obligations.SqueezeAcrossTheBlock : Prop :=
  ∀ (n : Nat) (s : State), n ≤ 4 → s.cfg = true → s.phase = .squeezing →
    s.cursor ≤ s.rate → s.rate < s.cursor + n →
    ∃ k : Nat, s.cursor + k = s.rate ∧
      exec (.squeeze n) s = .next { s with
        lanes := keccakF s.lanes
        rnd := 0
        cursor := n - k
        dout := packWord ((List.range k).map (fun j => stateByte s.lanes (s.cursor + j)) ++
          (List.range (n - k)).map (stateByte (keccakF s.lanes)))
        err := .ok
        busy := none }

/-! ### Errors -/

/-- Rule R106: NOT_INIT is raised by ABSORB and SQUEEZE, any legal N, while CFG = 0, and by nothing else. That an
N above 4 does not raise it follows from rules R105 and R110; that `exec` is asked of such a term at all is the
model's (log entry 14). -/
def Obligations.NotInitIsRaisedExactly : Prop :=
  ∀ (i : Instr) (s : State), ∃ t, exec i s = .next t ∧
    (t.err = .notInit ↔ s.cfg = false ∧ ∃ n, n ≤ 4 ∧ (i = .absorb n ∨ i = .squeeze n))

/-- Rule R107: INVALID_STATE is raised by ABSORB, any legal N including 0, while CFG = 1 and PHASE =
SQUEEZING, and by nothing else; by no N above 4, from rules R105 and R110 and, for such terms, log entry 14. -/
def Obligations.InvalidStateIsRaisedExactly : Prop :=
  ∀ (i : Instr) (s : State), ∃ t, exec i s = .next t ∧
    (t.err = .invalidState ↔
      s.cfg = true ∧ s.phase = .squeezing ∧ ∃ n, n ≤ 4 ∧ i = .absorb n)

/-- Rules R94, R104 and R110: the outcome code of every command, by the checks in their order, and STICKY.
A term with N above 4 is log entry 14's. -/
def Obligations.OutcomeCodeFollowsTheChecks : Prop :=
  ∀ (i : Instr) (s : State), ∃ t, exec i s = .next t ∧
    t.err =
      (match i with
        | .nop => ErrCode.ok
        | .init _ => .ok
        | .absorb n =>
          if 4 < n then .illegalCmd
          else if s.cfg = false then .notInit
          else if s.phase = .squeezing then .invalidState
          else .ok
        | .squeeze n =>
          if 4 < n then .illegalCmd else if s.cfg = false then .notInit else .ok) ∧
    (t.sticky = true ↔ t.err ≠ .ok ∨ (s.sticky = true ∧ ∀ v, i ≠ .init v))

/-- Rule R109: a command that fails, for whatever reason, leaves everything but ERR and STICKY as it was. -/
def Obligations.FailureChangesOnlyErrAndSticky : Prop :=
  ∀ (s t : State) (c : InFlight), s.Due c → step s = .next t → t.err ≠ .ok →
    t = { s with err := t.err, sticky := true, busy := none }

/-! ### Frames and who writes what -/

/-- The frame every command shares (rules R31, R94 and R53): DIN, the reset input, the host's pending and past
accesses are unchanged, and BUSY is 0 after it. -/
def Obligations.CommandFrame : Prop :=
  ∀ (i : Instr) (s t : State), exec i s = .next t →
    t.din = s.din ∧ t.resetLine = s.resetLine ∧ t.events = s.events ∧ t.replies = s.replies ∧
    t.draws = s.draws ∧ t.busy = none

/-- ABSORB's frame (rules R32 and R97): only S, RND, BUF, ERR and BUSY change, and STICKY when it fails. -/
def Obligations.AbsorbFrame : Prop :=
  ∀ (n : Nat) (s t : State), exec (.absorb n) s = .next t →
    t.phase = s.phase ∧ t.cursor = s.cursor ∧ t.cfg = s.cfg ∧ t.var = s.var ∧ t.din = s.din ∧
    t.dout = s.dout ∧ (t.err = .ok → t.sticky = s.sticky) ∧ (n = 0 → s.buf.length < s.rate →
      t.lanes = s.lanes ∧ t.buf = s.buf)

/-- SQUEEZE's frame (rule R98): CFG, VAR and DIN are unchanged, STICKY unless it fails, and BUF once squeezing
has begun. -/
def Obligations.SqueezeFrame : Prop :=
  ∀ (n : Nat) (s t : State), exec (.squeeze n) s = .next t →
    t.cfg = s.cfg ∧ t.var = s.var ∧ t.din = s.din ∧
    (t.err = .ok → t.sticky = s.sticky ∧ t.phase = .squeezing) ∧
    (s.phase = .squeezing → t.buf = s.buf)

/-- Rules R25 and R26: CFG and VAR change only in a step that completes an INIT, which sets CFG, or takes a reset
input, which clears both. -/
def Obligations.OnlyInitOrResetSelectsTheInstance : Prop :=
  ∀ s t : State, step s = .next t → (t.cfg ≠ s.cfg ∨ t.var ≠ s.var) →
    (∃ c v, s.busy = some c ∧ decode c.word = .ok (.init v) ∧ t.busy = none ∧ t.events = s.events ∧
      t.cfg = true ∧ t.var = v) ∨
    (∃ asserted, s.Takes (.resetInput asserted) t.events ∧
      (asserted = true ∨ s.resetLine = true) ∧ t.cfg = false ∧ t.var = .shake128)

/-- Rule R22: PHASE becomes SQUEEZING only in a step that completes a SQUEEZE of an existing instance, and
ABSORBING only in one that completes an INIT or takes a reset input. -/
def Obligations.PhaseChangesOnlyAtItsWriters : Prop :=
  ∀ s t : State, step s = .next t →
    (s.phase = .absorbing → t.phase = .squeezing →
      s.cfg = true ∧ t.busy = none ∧ t.events = s.events ∧
        ∃ c n, s.busy = some c ∧ decode c.word = .ok (.squeeze n)) ∧
    (s.phase = .squeezing → t.phase = .absorbing →
      (t.busy = none ∧ t.events = s.events ∧ ∃ c v, s.busy = some c ∧ decode c.word = .ok (.init v)) ∨
      (∃ asserted, s.Takes (.resetInput asserted) t.events ∧
        (asserted = true ∨ s.resetLine = true)))

/-- Rule R29: STICKY is cleared only in a step that completes an INIT or takes a reset input. -/
def Obligations.StickyStaysUntilInitOrReset : Prop :=
  ∀ s t : State, step s = .next t → s.sticky = true → t.sticky = false →
    (t.busy = none ∧ t.events = s.events ∧ ∃ c v, s.busy = some c ∧ decode c.word = .ok (.init v)) ∨
    (∃ asserted, s.Takes (.resetInput asserted) t.events ∧
      (asserted = true ∨ s.resetLine = true))

/-- Rules R31 and R32: DIN changes only in a step that takes a host write of it, and DOUT only in one that
completes a SQUEEZE or INIT that succeeds, or either in one that takes a reset input, which clears both. -/
def Obligations.DataRegistersChangeOnlyAtTheirWriters : Prop :=
  ∀ s t : State, step s = .next t →
    (t.din ≠ s.din →
      (∃ w, s.busy = none ∧ s.events = .access ⟨0x04, 4, .write w⟩ :: t.events ∧ t.din = w) ∨
      (∃ asserted, s.Takes (.resetInput asserted) t.events ∧ t.din = 0)) ∧
    (t.dout ≠ s.dout →
      (∃ c i, s.busy = some c ∧ decode c.word = .ok i ∧ t.busy = none ∧ t.events = s.events ∧ t.err = .ok ∧
        ((∃ n, i = .squeeze n) ∨ ∃ v, i = .init v ∧ t.dout = 0)) ∨
      (∃ asserted, s.Takes (.resetInput asserted) t.events ∧ t.dout = 0))

/-- Rule R51: an access other than a CMD write changes nothing but the register it writes: a read has no
side effect, a DIN write changes DIN alone, and writes to DOUT and STATUS change nothing. -/
def Obligations.OnlyCmdWritesHaveSideEffects : Prop :=
  ∀ (s t : State) (a : Access) (es : List HostEvent),
    s.events = .access a :: es → s.busy = none → step s = .next t →
    (a.op = .read → t.SameElements s ∧ t.busy = none ∧ ∃ w, t.replies = w :: s.replies) ∧
    (∀ w, a.op = .write w → a.off ≠ 0x00 →
      t.SameElements { s with din := if a.off = 0x04 then w else s.din } ∧ t.busy = none ∧
      t.replies = s.replies)

/-! ### The register window -/

/-- Rules R43 and R127: a CMD write is accepted when BUSY = 0 and sets BUSY <- 1, with the word in progress and a
number of accesses that may see it busy (log entries 2 and 3); a CMD read returns 0 and has no side effect. -/
def Obligations.CmdAccesses : Prop :=
  ∀ (s : State) (es : List HostEvent), s.busy = none → s.resetLine = false →
    (∀ w, s.events = .access ⟨0x00, 4, .write w⟩ :: es →
      ∃ k d, step s = .next { s with busy := some ⟨w, k⟩, events := es, draws := d }) ∧
    (s.events = .access ⟨0x00, 4, .read⟩ :: es →
      step s = .next { s with replies := 0x00000000#32 :: s.replies, events := es })

/-- Rule R44: a DIN write sets DIN and has no other effect; a DIN read returns DIN and has no side effect. -/
def Obligations.DinAccesses : Prop :=
  ∀ (s : State) (es : List HostEvent), s.busy = none → s.resetLine = false →
    (∀ w, s.events = .access ⟨0x04, 4, .write w⟩ :: es →
      step s = .next { s with din := w, events := es }) ∧
    (s.events = .access ⟨0x04, 4, .read⟩ :: es →
      step s = .next { s with replies := s.din :: s.replies, events := es })

/-- Rule R45: a DOUT read returns DOUT and changes nothing, CURSOR and the output included; a DOUT write is
ignored. -/
def Obligations.DoutAccesses : Prop :=
  ∀ (s : State) (es : List HostEvent), s.busy = none → s.resetLine = false →
    (s.events = .access ⟨0x08, 4, .read⟩ :: es →
      step s = .next { s with replies := s.dout :: s.replies, events := es }) ∧
    (∀ w, s.events = .access ⟨0x08, 4, .write w⟩ :: es →
      step s = .next { s with events := es })

/-- Rules R34 and R46: a STATUS read while BUSY = 0 returns the fields in their places, with the reserved
bits 0, and changes nothing; a STATUS write is ignored. The two bounds hold in every state of the
invariant (rules R21 and R23). -/
def Obligations.StatusAccesses : Prop :=
  ∀ (s : State) (es : List HostEvent), s.busy = none → s.resetLine = false →
    (s.events = .access ⟨0x0C, 4, .read⟩ :: es → s.buf.length ≤ 167 → s.cursor ≤ 168 →
      ∃ w : Word, step s = .next { s with replies := w :: s.replies, events := es } ∧
        w.getLsbD 0 = false ∧ w.getLsbD 1 = s.cfg ∧
        w.getLsbD 2 = decide (s.var = .shake256) ∧ w.getLsbD 3 = decide (s.phase = .squeezing) ∧
        (w.extractLsb' 4 2).toNat =
          (match s.err with | .ok => 0 | .illegalCmd => 1 | .notInit => 2 | .invalidState => 3) ∧
        w.getLsbD 6 = s.sticky ∧ w.getLsbD 7 = false ∧
        (w.extractLsb' 8 8).toNat = s.buf.length ∧ (w.extractLsb' 16 8).toNat = s.cursor ∧
        w.extractLsb' 24 8 = 0) ∧
    (∀ w, s.events = .access ⟨0x0C, 4, .write w⟩ :: es → step s = .next { s with events := es })

/-- Rules R40 to R42: an access that is not 32 bits wide, or not at a multiple of 4, gets a bus error, whether
or not the block is busy. -/
def Obligations.MalformedAccessGetsABusError : Prop :=
  ∀ (s : State) (a : Access) (es : List HostEvent),
    s.Takes (.access a) es → s.resetLine = false → (a.bytes ≠ 4 ∨ ¬ 4 ∣ a.off.val) →
    step s = .fault .busError

/-- Rule R41: any access to a reserved offset gets a bus error, a read or a write, busy or not. -/
def Obligations.ReservedOffsetGetsABusError : Prop :=
  ∀ (s : State) (a : Access) (es : List HostEvent),
    s.Takes (.access a) es → s.resetLine = false →
    (a.off = 0x10 ∨ a.off = 0x14 ∨ a.off = 0x18 ∨ a.off = 0x1C) →
    step s = .fault .busError

/-- Rules R7, R12 and R38: a host access at P_BASE + off, for off below 32, reaches the block at offset off,
whatever P_BASE is; one that starts at any other address does not reach it. For an access that starts below the
window and runs into it, that last clause is the model's choice (log entry 10): the spec does not describe one. -/
def Obligations.WindowIsTheThirtyTwoBytesAtPBase : Prop :=
  ∀ (base : WindowBase) (bytes : Nat) (op : AccessOp), base.addr % 32 = 0 ∧
    (∀ off : Fin 32, busAccess base (base.addr + off.val) bytes op = some ⟨off, bytes, op⟩) ∧
    (∀ addr : Nat, addr < base.addr ∨ base.addr + 32 ≤ addr → busAccess base addr bytes op = none)

/-! ### While a command runs -/

/-- Rules R125 and R120: while BUSY = 1 an access to CMD, DIN or DOUT is not performed. Either the step completes
the command, and the access is still the host's next; or a reset input that stands behind the access, with no other
access between, abandons the command, and the held access is gone without a response (the model's choice, log entry
21). So with no such reset the first is what happens. A STATUS write is held in the same way (rule R30; log
entry 5). -/
def Obligations.StallHoldsTheAccess : Prop :=
  ∀ (s : State) (c : InFlight) (a : Access) (es : List HostEvent),
    s.busy = some c → s.events = .access a :: es → a.bytes = 4 →
    (a.off = 0x00 ∨ a.off = 0x04 ∨ a.off = 0x08 ∨ (a.off = 0x0C ∧ ∃ w, a.op = .write w)) →
    ∃ t, step s = .next t ∧ t.busy = none ∧ t.replies = s.replies ∧
      ((t.events = s.events ∧ t.din = s.din ∧ t.resetLine = s.resetLine ∧
          (resetBehind es = none ∨ c.busyReads = 0)) ∨
        (resetBehind es = some t.events ∧ 0 < c.busyReads ∧ t.resetLine = true ∧
          t.SameElements State.reset))

/-- Rules R34 and R127: a STATUS read while BUSY = 1 returns bit 0 = 1 and leaves the block, and the command in
progress, as they were; bits 31:1 are whatever the free value is. Rule R66's WAIT, which rests on it: from any state
with the reset input low it ends with BUSY = 0, bit 0 of the last word read is 0 and of every one before it is 1, and
there are as many of those as the command in progress may be seen busy (log entry 3). It is the run of that many
STATUS reads and one more. -/
def Obligations.StatusReadWhileBusy : Prop :=
  (∀ (s : State) (c : InFlight) (es : List HostEvent),
    s.busy = some c → 0 < c.busyReads → s.resetLine = false →
    s.events = .access ⟨0x0C, 4, .read⟩ :: es →
    ∃ (w : Word) (d : Nat), w.getLsbD 0 = true ∧
      step s = .next { s with
        replies := w :: s.replies, events := es, draws := d
        busy := some ⟨c.word, c.busyReads - 1⟩ }) ∧
  (∀ s : State, s.resetLine = false →
    ∃ (t : State) (last : Word) (before : List Word) (k : Nat),
      wait s = .next t ∧ t.busy = none ∧ t.events = [] ∧
      t.replies = last :: before ++ s.replies ∧
      last.getLsbD 0 = false ∧ (∀ w ∈ before, w.getLsbD 0 = true) ∧
      (s.busy = none → before = []) ∧ (∀ c, s.busy = some c → before.length = c.busyReads) ∧
      core.run k (s.withAccesses (waitReads (before.length + 1))) = .next t)

/-- Rules R52 and R126: no step shows a command halfway. While BUSY stays 1 every element is as it was; when
BUSY becomes 0, either the whole command took place in that step, or reset abandoned it. -/
def Obligations.CommandsAreAtomic : Prop :=
  ∀ (s t : State) (c : InFlight), s.busy = some c → step s = .next t →
    (t.busy ≠ none → t.SameElements s) ∧
    (t.busy = none →
      (t.events = s.events ∧
        ((∃ i, decode c.word = .ok i ∧ exec i s = .next t) ∨
          (∃ r, decode c.word = .error r ∧
            t = { s with err := .illegalCmd, sticky := true, busy := none }))) ∨
      (∃ asserted, s.Takes (.resetInput asserted) t.events ∧ t.SameElements State.reset))

/-- Rules R126 and R120, for a host that gets no bus error: BUSY returns to 0, by completion or by reset. Within
the inputs pending, and with the elements and the word in progress as they were, a state is reached whose next step
either completes the command, or takes a reset input that was among them and abandons it. Before that step the
command has been seen busy at most the number of times that was drawn for it (log entry 3); a reset behind a held
access may be the one that abandons it (log entry 21). With no reset pending, every accepted command completes. -/
def Obligations.EveryCommandCompletes : Prop :=
  ∀ (s : State) (c : InFlight), s.busy = some c → s.HostLegal →
    ∃ (k : Nat) (u t : State) (d : InFlight), k ≤ s.events.length ∧ core.run k s = .next u ∧
      u.busy = some d ∧ d.word = c.word ∧ u.SameElements s ∧
      step u = .next t ∧ t.busy = none ∧ t.replies = u.replies ∧
      t.replies.length ≤ s.replies.length + c.busyReads ∧
      ((u.Due d ∧ t.events = u.events) ∨
        (∃ asserted, u.Takes (.resetInput asserted) t.events ∧
          HostEvent.resetInput asserted ∈ s.events ∧ t.SameElements State.reset))

/-- Rules R40 to R42, R115 and R121 together: nothing but a bus error or an access during reset stops the
block. A step of a state whose pending inputs are legal gives a next state whose pending inputs are legal. -/
def Obligations.LegalHostNeverStopsTheBlock : Prop :=
  ∀ s : State, s.HostLegal → ∃ t, step s = .next t ∧ t.HostLegal

/-! ### The permutation -/

/-- Rule R9: under ROTL64 by n, bit z moves to bit (z + n) mod 64. -/
def Obligations.RotationMovesEveryBit : Prop :=
  ∀ (v : Lane) (n z : Nat), n < 64 → z < 64 →
    (rotl64 v n).getLsbD ((z + n) % 64) = v.getLsbD z

/-- Rule R71: theta, lane by lane. -/
def Obligations.ThetaMixesColumnParities : Prop :=
  ∀ (A : Lanes) (C D : Fin 5 → Lane),
    (∀ x, C x = laneAt A x 0 ^^^ laneAt A x 1 ^^^ laneAt A x 2 ^^^ laneAt A x 3 ^^^ laneAt A x 4) →
    (∀ x, D x = C (x + 4) ^^^ rotl64 (C (x + 1)) 1) →
    ∀ x y, laneAt (theta A) x y = laneAt A x y ^^^ D x

/-- Rules R72, R74 and R75: rho rotates each lane by its offset; pi moves lane A[x,y] whole to
A'[y, (2x + 3y) mod 5]; chi combines each lane with the two after it in its row, all from the array before the
step. -/
def Obligations.RhoPiAndChiLaneByLane : Prop :=
  ∀ (A : Lanes) (x y : Fin 5),
    laneAt (rho A) x y = rotl64 (laneAt A x y) (rhoOffset x y) ∧
    laneAt (piStep A) y (2 * x + 3 * y) = laneAt A x y ∧
    laneAt (piStep A) x y = laneAt A (x + 3 * y) x ∧
    laneAt (chi A) x y = laneAt A x y ^^^ (~~~ laneAt A (x + 1) y &&& laneAt A (x + 2) y)

/-- Rules R76 and R78: iota changes lane A[0,0] alone, by the constant the LFSR of rule R78 generates. Rules R69
and R70: the permutation takes every state through the 24 rounds ir = 0..23 in order, each round the five steps in
theirs; the zero state goes to the lanes of V-P1 (95_test_vectors.md). Rule R77: PERMUTE puts the result in S,
leaves RND at 0 and writes no other state. -/
def Obligations.IotaInjectsTheGeneratedConstant : Prop :=
  (∀ (A : Lanes) (ir : Fin 24) (x y : Fin 5),
    laneAt (iota A ir) x y =
      if x = 0 ∧ y = 0 then laneAt A 0 0 ^^^ generatedConstant ir.val else laneAt A x y) ∧
  (∀ B : Nat → Lanes,
    (∀ ir : Fin 24, B (ir.val + 1) = iota (chi (piStep (rho (theta (B ir.val))))) ir) →
    keccakF (B 0) = B 24) ∧
  (keccakF (Vector.replicate 25 0#64)).toList.map BitVec.toNat =
    [0xF1258F7940E1DDE7, 0x84D5CCF933C0478A, 0xD598261EA65AA9EE, 0xBD1547306F80494D, 0x8B284E056253D057] ++
    [0xFF97A42D7F8E6FD4, 0x90FEE5A0A44647C4, 0x8C5BDA0CD6192E76, 0xAD30A6F71B19059C, 0x30935AB7D08FFC64] ++
    [0xEB5AA93F2317D635, 0xA9A6E6260D712103, 0x81A57C16DBCF555F, 0x43B831CD0347C826, 0x01F22F1A11A5569F] ++
    [0x05E5635A21D9AE61, 0x64BEFEF28CC970F2, 0x613670957BC46611, 0xB87C5A554FD00ECB, 0x8C3EE88A1CCF32C8] ++
    [0x940C7922AE3A2614, 0x1841F924A2C509E4, 0x16F53526E70465C2, 0x75F644E97F30A13B, 0xEAF1FF7B5CECA249] ∧
  (∀ s : State, permute s = { s with lanes := keccakF s.lanes, rnd := 0 })

/-- Rule R73: the table of rotation offsets is the one the walk from (1, 0) generates. -/
def Obligations.RotationOffsetsFollowTheWalk : Prop :=
  rhoOffset 0 0 = 0 ∧
  ∀ t : Fin 24, rhoOffset (rhoWalk t.val).1 (rhoWalk t.val).2 = (t.val + 1) * (t.val + 2) / 2 % 64

/-! ### Bytes, blocks and padding -/

/-- Rule R19: lane number x + 5*y is A[x, y], and bit j of S_byte[i] is bit 8*(i mod 8) + j of lane number
i div 8. -/
def Obligations.StateBytesAreLittleEndian : Prop :=
  ∀ (A : Lanes) (x y : Fin 5) (i j : Nat), j < 8 → i / 8 = x.val + 5 * y.val →
    (stateByte A i).getLsbD j = (laneAt A x y).getLsbD (8 * (i % 8) + j)

/-- Rule R82: XOR_BLOCK XORs byte j of the block into S_byte[j], and changes no byte past the block. -/
def Obligations.XorBlockReachesTheFirstBytesAlone : Prop :=
  ∀ (A : Lanes) (p : List Byte) (j : Nat), j < 200 →
    (∀ b, p[j]? = some b → stateByte (xorBlock A p) j = stateByte A j ^^^ b) ∧
    (p.length ≤ j → stateByte (xorBlock A p) j = stateByte A j)

/-- Rule R84: PAD's bytes are the bits of the multi-rate padding rule with suffix 1111, and fill the block. -/
def Obligations.PaddingIsTheBitRule : Prop :=
  ∀ (v : Variant) (buf : List Byte), buf.length < rate v →
    (pad (rate v) buf).length = rate v ∧ bitsOf (pad (rate v) buf) = padBits (rate v) buf

/-- Rule R48: byte k of DOUT is output byte k, for k < N, and zero above. -/
def Obligations.DoutBytesInStreamOrder : Prop :=
  ∀ (o : List Byte) (k : Nat), o.length ≤ 4 → k < 4 →
    (packWord o).extractLsb' (8 * k) 8 = (o[k]?).getD 0

/-- Rule R6: rate and capacity are 200 bytes together, for both variants, with rule R5's values. -/
def Obligations.RateAndCapacityFillTheState : Prop :=
  (∀ v : Variant, rate v + cap v = 200) ∧ rate .shake128 = 168 ∧ cap .shake128 = 32 ∧
  rate .shake256 = 136 ∧ cap .shake256 = 64

/-! ### The sponge's laws -/

/-- Rule R89: absorbing a, then b, is absorbing a ++ b. -/
def Obligations.UpdateEquivalence : Prop :=
  ∀ (s : State) (a b : List Byte),
    absorbBytes b (absorbBytes a s) = absorbBytes (a ++ b) s

/-- Rule R90: squeezing m bytes, then n, delivers the bytes and leaves the state of squeezing m + n. -/
def Obligations.StreamingConcatenation : Prop :=
  ∀ (s : State) (m n : Nat),
    (squeezeBytes m s).1 ++ (squeezeBytes n (squeezeBytes m s).2).1 = (squeezeBytes (m + n) s).1 ∧
    (squeezeBytes n (squeezeBytes m s).2).2 = (squeezeBytes (m + n) s).2

/-- Rules R91 and R92: after INIT V and any commands but INIT, with any DIN words, a SQUEEZE N delivers the N
bytes of the closed-form stream Z that follow those delivered before, for the message the successful ABSORBs
took. Splits, NOPs, failed commands and what went before INIT have no effect. -/
def Obligations.OutputIsTheClosedFormStream : Prop :=
  ∀ (v : Variant) (s : State) (l : List (Word × Instr)) (n : Nat),
    (∀ p ∈ l, ∀ u, p.2 ≠ .init u) → n ≤ 4 →
    ∃ t₁ t₂ t₃ : State,
      exec (.init v) s = .next t₁ ∧ runCommands l t₁ = .next t₂ ∧
      exec (.squeeze n) t₂ = .next t₃ ∧ t₃.err = .ok ∧
      t₃.dout = packWord (streamBytes v (l.foldl History.add ⟨[], none⟩).message
        ((l.foldl History.add ⟨[], none⟩).squeezed.getD 0) n)

/-- Rule R93: BUF may be kept XORed into S. ABSORB_BYTES and FINALIZE act on S XOR (BUF ++ zeros) as that rule
says. -/
def Obligations.BufferMayBeKeptInsideTheState : Prop :=
  ∀ (s : State) (m : List Byte), s.buf.length < s.rate →
    inPlace (absorbBytes m s) = m.foldl (inPlaceAbsorb s.rate) (inPlace s) ∧
    (s.phase = .absorbing → (finalize s).lanes = inPlaceFinalize s.rate (inPlace s))

/-- Rules R18, R24 and R86(d): the capacity bytes are never output. Two states that differ only in bytes of S
from the rate on deliver the same output until the next permutation. -/
def Obligations.CapacityIsNotDelivered : Prop :=
  ∀ (s : State) (B : Lanes) (n : Nat), n ≤ 4 → s.cfg = true → s.phase = .squeezing →
    s.cursor + n ≤ s.rate → (∀ j, j < s.rate → stateByte B j = stateByte s.lanes j) →
    ∃ t u, exec (.squeeze n) s = .next t ∧ exec (.squeeze n) { s with lanes := B } = .next u ∧
      u.dout = t.dout ∧ statusWord u = statusWord t

/-- Rules R66, R99 and R123: the accesses of NEW V with a message, then READ n, run to their end from any state
with BUSY = 0 and the reset input low, and the words read are the n bytes of SHAKE output for the message, four to
a word. -/
def Obligations.FacadeDeliversTheStream : Prop :=
  ∀ (s : State) (v : Variant) (m : List Byte) (n : Nat), s.busy = none → s.resetLine = false →
    ∃ k t, core.run k (s.withAccesses (newSeeded v m ++ readAccesses n)) = .next t ∧
      t.events = [] ∧ t.busy = none ∧ t.err = .ok ∧ t.sticky = false ∧ t.phase = .squeezing ∧
      ∃ ws : List Word, t.replies = ws.reverse ++ s.replies ∧ ws.length = (n + 3) / 4 ∧
        ((ws.flatMap (dinBytes 4)).take n) = streamBytes v m 0 n
end

