-- ==== Sys2Proof/Laws/Bytes.lean ====
section
/-! SUPPORT. The byte view of S and what goes into it: one lemma for each of `packLane`, `stateByte`,
`xorBlock` and `pad`, which later proofs cite. -/

namespace Sys2Proof.Machine

/-- Bit `8*k + j` of a packed lane is bit `j` of its byte `k` (rule R19). -/
theorem packLane_getLsbD (b : Nat → Byte) {k j : Nat} (hk : k < 8) (hj : j < 8) :
    (packLane b).getLsbD (8 * k + j) = (b k).getLsbD j := by
  simp only [packLane, BitVec.getLsbD_append]
  interval_cases k <;> simp <;> (try omega) <;> (repeat' split) <;>
    first | omega | (congr 1; omega)

/-- A byte of S by its lane and its place there (rule R19). -/
theorem stateByte_eq (A : Lanes) (n : Fin 25) {k : Nat} (hk : k < 8) :
    stateByte A (8 * n.val + k) = (A[n]).extractLsb' (8 * k) 8 := by
  have h1 : (8 * n.val + k) / 8 = n.val := by omega
  have h2 : (8 * n.val + k) % 8 = k := by omega
  simp [stateByte, h1, h2]

/-- Byte `k` of a packed lane. -/
theorem packLane_byte (b : Nat → Byte) {k : Nat} (hk : k < 8) :
    (packLane b).extractLsb' (8 * k) 8 = b k := by
  ext j hj
  simp [hj, packLane_getLsbD b hk hj]

theorem stateByte_xorBlock (A : Lanes) (p : List Byte) {i : Nat} (hi : i < 200) :
    stateByte (xorBlock A p) i = stateByte A i ^^^ (p[i]?).getD 0 := by
  obtain ⟨n, k, hk, rfl⟩ : ∃ (n : Fin 25) (k : Nat), k < 8 ∧ i = 8 * n.val + k :=
    ⟨⟨i / 8, by omega⟩, i % 8, by omega, by simp; omega⟩
  rw [stateByte_eq _ _ hk, stateByte_eq _ _ hk]
  simp only [xorBlock, Fin.getElem_fin, Vector.getElem_ofFn]
  rw [BitVec.extractLsb'_xor, packLane_byte _ hk]
  simp

theorem lanes_ext_of_stateByte {A B : Lanes} (h : ∀ i, i < 200 → stateByte A i = stateByte B i) :
    A = B := by
  ext n hn z hz
  have := h (8 * n + z / 8) (by omega)
  rw [stateByte_eq A ⟨n, hn⟩ (by omega), stateByte_eq B ⟨n, hn⟩ (by omega)] at this
  have := congrArg (·.getLsbD (z % 8)) this
  simp [Nat.mod_lt, show 8 * (z / 8) + z % 8 = z by omega] at this
  simpa [hz] using this

theorem pad_length {r : Nat} {buf : List Byte} (h : buf.length < r) : (pad r buf).length = r := by
  simp [pad]; omega

/-- Byte `j` of the message and the suffix byte, before the trailing 1 is set. -/
theorem suffixed_getD (buf : List Byte) (k j : Nat) :
    ((buf ++ [0x1F#8] ++ List.replicate k 0)[j]?).getD 0 =
      (buf[j]?).getD 0 ^^^ (if j = buf.length then 0x1F else 0) := by
  rw [List.append_assoc]
  rcases Nat.lt_trichotomy j buf.length with hj | rfl | hj
  · simp [List.getElem?_append_left hj, hj, Nat.ne_of_lt hj]
  · simp
  · have h0 : buf[j]? = none := List.getElem?_eq_none (by omega)
    obtain ⟨i, hi⟩ : ∃ i, j - buf.length = i + 1 := ⟨j - buf.length - 1, by omega⟩
    rw [List.getElem?_append_right (by omega), hi, h0]
    simp only [List.singleton_append, List.getElem?_cons_succ, List.getElem?_replicate,
      show j ≠ buf.length by omega]
    split <;> simp

/-- Byte `j` of the padded block (rule R84). -/
theorem pad_getD {r : Nat} {buf : List Byte} (h : buf.length < r) (j : Nat) :
    ((pad r buf)[j]?).getD 0 = (buf[j]?).getD 0 ^^^ (if j = buf.length then 0x1F else 0) ^^^
      (if j = r - 1 then 0x80 else 0) := by
  rw [← suffixed_getD buf (r - buf.length - 1) j, pad, List.getElem?_modify]
  by_cases hj : j = r - 1
  · rw [List.getElem?_eq_getElem (by simp; omega)]
    simp [hj]
  · simp only [if_neg hj, if_neg (Ne.symm hj)]
    simp

end Sys2Proof.Machine
end

