-- ==== Sys2Proof/Laws/State.lean ====
section
/-! SUPPORT. For each named update of the state, what it leaves in each field, true by definition. No later
proof needs to unfold one of these updates. -/

namespace Sys2Proof.Machine

@[simp] theorem setErr_lanes (c : ErrCode) (s : State) : (setErr c s).lanes = s.lanes := rfl
@[simp] theorem setErr_buf (c : ErrCode) (s : State) : (setErr c s).buf = s.buf := rfl
@[simp] theorem setErr_phase (c : ErrCode) (s : State) : (setErr c s).phase = s.phase := rfl
@[simp] theorem setErr_cursor (c : ErrCode) (s : State) : (setErr c s).cursor = s.cursor := rfl
@[simp] theorem setErr_cfg (c : ErrCode) (s : State) : (setErr c s).cfg = s.cfg := rfl
@[simp] theorem setErr_var (c : ErrCode) (s : State) : (setErr c s).var = s.var := rfl
@[simp] theorem setErr_err (c : ErrCode) (s : State) : (setErr c s).err = c := rfl
@[simp] theorem setErr_sticky (c : ErrCode) (s : State) : (setErr c s).sticky = s.sticky := rfl
@[simp] theorem setErr_busy (c : ErrCode) (s : State) : (setErr c s).busy = s.busy := rfl
@[simp] theorem setErr_din (c : ErrCode) (s : State) : (setErr c s).din = s.din := rfl
@[simp] theorem setErr_dout (c : ErrCode) (s : State) : (setErr c s).dout = s.dout := rfl
@[simp] theorem setErr_rnd (c : ErrCode) (s : State) : (setErr c s).rnd = s.rnd := rfl
@[simp] theorem setErr_resetLine (c : ErrCode) (s : State) : (setErr c s).resetLine = s.resetLine := rfl
@[simp] theorem setErr_events (c : ErrCode) (s : State) : (setErr c s).events = s.events := rfl
@[simp] theorem setErr_replies (c : ErrCode) (s : State) : (setErr c s).replies = s.replies := rfl
@[simp] theorem setErr_draws (c : ErrCode) (s : State) : (setErr c s).draws = s.draws := rfl

@[simp] theorem raiseErr_lanes (c : ErrCode) (s : State) : (raiseErr c s).lanes = s.lanes := rfl
@[simp] theorem raiseErr_buf (c : ErrCode) (s : State) : (raiseErr c s).buf = s.buf := rfl
@[simp] theorem raiseErr_phase (c : ErrCode) (s : State) : (raiseErr c s).phase = s.phase := rfl
@[simp] theorem raiseErr_cursor (c : ErrCode) (s : State) : (raiseErr c s).cursor = s.cursor := rfl
@[simp] theorem raiseErr_cfg (c : ErrCode) (s : State) : (raiseErr c s).cfg = s.cfg := rfl
@[simp] theorem raiseErr_var (c : ErrCode) (s : State) : (raiseErr c s).var = s.var := rfl
@[simp] theorem raiseErr_err (c : ErrCode) (s : State) : (raiseErr c s).err = c := rfl
@[simp] theorem raiseErr_sticky (c : ErrCode) (s : State) : (raiseErr c s).sticky = true := rfl
@[simp] theorem raiseErr_busy (c : ErrCode) (s : State) : (raiseErr c s).busy = s.busy := rfl
@[simp] theorem raiseErr_din (c : ErrCode) (s : State) : (raiseErr c s).din = s.din := rfl
@[simp] theorem raiseErr_dout (c : ErrCode) (s : State) : (raiseErr c s).dout = s.dout := rfl
@[simp] theorem raiseErr_rnd (c : ErrCode) (s : State) : (raiseErr c s).rnd = s.rnd := rfl
@[simp] theorem raiseErr_resetLine (c : ErrCode) (s : State) : (raiseErr c s).resetLine = s.resetLine := rfl
@[simp] theorem raiseErr_events (c : ErrCode) (s : State) : (raiseErr c s).events = s.events := rfl
@[simp] theorem raiseErr_replies (c : ErrCode) (s : State) : (raiseErr c s).replies = s.replies := rfl
@[simp] theorem raiseErr_draws (c : ErrCode) (s : State) : (raiseErr c s).draws = s.draws := rfl

@[simp] theorem finish_lanes (s : State) : (finish s).lanes = s.lanes := rfl
@[simp] theorem finish_buf (s : State) : (finish s).buf = s.buf := rfl
@[simp] theorem finish_phase (s : State) : (finish s).phase = s.phase := rfl
@[simp] theorem finish_cursor (s : State) : (finish s).cursor = s.cursor := rfl
@[simp] theorem finish_cfg (s : State) : (finish s).cfg = s.cfg := rfl
@[simp] theorem finish_var (s : State) : (finish s).var = s.var := rfl
@[simp] theorem finish_err (s : State) : (finish s).err = s.err := rfl
@[simp] theorem finish_sticky (s : State) : (finish s).sticky = s.sticky := rfl
@[simp] theorem finish_busy (s : State) : (finish s).busy = none := rfl
@[simp] theorem finish_din (s : State) : (finish s).din = s.din := rfl
@[simp] theorem finish_dout (s : State) : (finish s).dout = s.dout := rfl
@[simp] theorem finish_rnd (s : State) : (finish s).rnd = s.rnd := rfl
@[simp] theorem finish_resetLine (s : State) : (finish s).resetLine = s.resetLine := rfl
@[simp] theorem finish_events (s : State) : (finish s).events = s.events := rfl
@[simp] theorem finish_replies (s : State) : (finish s).replies = s.replies := rfl
@[simp] theorem finish_draws (s : State) : (finish s).draws = s.draws := rfl

@[simp] theorem accept_lanes (w : Word) (s : State) : (accept w s).lanes = s.lanes := rfl
@[simp] theorem accept_buf (w : Word) (s : State) : (accept w s).buf = s.buf := rfl
@[simp] theorem accept_phase (w : Word) (s : State) : (accept w s).phase = s.phase := rfl
@[simp] theorem accept_cursor (w : Word) (s : State) : (accept w s).cursor = s.cursor := rfl
@[simp] theorem accept_cfg (w : Word) (s : State) : (accept w s).cfg = s.cfg := rfl
@[simp] theorem accept_var (w : Word) (s : State) : (accept w s).var = s.var := rfl
@[simp] theorem accept_err (w : Word) (s : State) : (accept w s).err = s.err := rfl
@[simp] theorem accept_sticky (w : Word) (s : State) : (accept w s).sticky = s.sticky := rfl
@[simp] theorem accept_busy (w : Word) (s : State) : (accept w s).busy = some ⟨w, Config.busyReads s.draws⟩ := rfl
@[simp] theorem accept_din (w : Word) (s : State) : (accept w s).din = s.din := rfl
@[simp] theorem accept_dout (w : Word) (s : State) : (accept w s).dout = s.dout := rfl
@[simp] theorem accept_rnd (w : Word) (s : State) : (accept w s).rnd = s.rnd := rfl
@[simp] theorem accept_resetLine (w : Word) (s : State) : (accept w s).resetLine = s.resetLine := rfl
@[simp] theorem accept_events (w : Word) (s : State) : (accept w s).events = s.events := rfl
@[simp] theorem accept_replies (w : Word) (s : State) : (accept w s).replies = s.replies := rfl
@[simp] theorem accept_draws (w : Word) (s : State) : (accept w s).draws = s.draws + 1 := rfl

@[simp] theorem reply_lanes (w : Word) (s : State) : (reply w s).lanes = s.lanes := rfl
@[simp] theorem reply_buf (w : Word) (s : State) : (reply w s).buf = s.buf := rfl
@[simp] theorem reply_phase (w : Word) (s : State) : (reply w s).phase = s.phase := rfl
@[simp] theorem reply_cursor (w : Word) (s : State) : (reply w s).cursor = s.cursor := rfl
@[simp] theorem reply_cfg (w : Word) (s : State) : (reply w s).cfg = s.cfg := rfl
@[simp] theorem reply_var (w : Word) (s : State) : (reply w s).var = s.var := rfl
@[simp] theorem reply_err (w : Word) (s : State) : (reply w s).err = s.err := rfl
@[simp] theorem reply_sticky (w : Word) (s : State) : (reply w s).sticky = s.sticky := rfl
@[simp] theorem reply_busy (w : Word) (s : State) : (reply w s).busy = s.busy := rfl
@[simp] theorem reply_din (w : Word) (s : State) : (reply w s).din = s.din := rfl
@[simp] theorem reply_dout (w : Word) (s : State) : (reply w s).dout = s.dout := rfl
@[simp] theorem reply_rnd (w : Word) (s : State) : (reply w s).rnd = s.rnd := rfl
@[simp] theorem reply_resetLine (w : Word) (s : State) : (reply w s).resetLine = s.resetLine := rfl
@[simp] theorem reply_events (w : Word) (s : State) : (reply w s).events = s.events := rfl
@[simp] theorem reply_replies (w : Word) (s : State) : (reply w s).replies = w :: s.replies := rfl
@[simp] theorem reply_draws (w : Word) (s : State) : (reply w s).draws = s.draws := rfl

@[simp] theorem permute_lanes (s : State) : (permute s).lanes = keccakF s.lanes := rfl
@[simp] theorem permute_buf (s : State) : (permute s).buf = s.buf := rfl
@[simp] theorem permute_phase (s : State) : (permute s).phase = s.phase := rfl
@[simp] theorem permute_cursor (s : State) : (permute s).cursor = s.cursor := rfl
@[simp] theorem permute_cfg (s : State) : (permute s).cfg = s.cfg := rfl
@[simp] theorem permute_var (s : State) : (permute s).var = s.var := rfl
@[simp] theorem permute_err (s : State) : (permute s).err = s.err := rfl
@[simp] theorem permute_sticky (s : State) : (permute s).sticky = s.sticky := rfl
@[simp] theorem permute_busy (s : State) : (permute s).busy = s.busy := rfl
@[simp] theorem permute_din (s : State) : (permute s).din = s.din := rfl
@[simp] theorem permute_dout (s : State) : (permute s).dout = s.dout := rfl
@[simp] theorem permute_rnd (s : State) : (permute s).rnd = 0 := rfl
@[simp] theorem permute_resetLine (s : State) : (permute s).resetLine = s.resetLine := rfl
@[simp] theorem permute_events (s : State) : (permute s).events = s.events := rfl
@[simp] theorem permute_replies (s : State) : (permute s).replies = s.replies := rfl
@[simp] theorem permute_draws (s : State) : (permute s).draws = s.draws := rfl

end Sys2Proof.Machine
end

