-- ==== Sys2Proof/Laws/Sponge.lean ====
section
/-! SUPPORT. The sponge operations: what each leaves unchanged, said once, and the equations by which later
proofs unfold the absorb loop and the squeeze. -/

namespace Sys2Proof.Machine

theorem rate_pos (v : Variant) : 0 < rate v := by cases v <;> decide

theorem rate_le (v : Variant) : rate v ≤ 168 := by cases v <;> decide

theorem four_lt_rate (v : Variant) : 4 < rate v := by cases v <;> decide

@[simp] theorem absorbBlock_rate (s : State) : (absorbBlock s).rate = s.rate := rfl

@[simp] theorem absorbBlock_buf (s : State) : (absorbBlock s).buf = s.buf.drop s.rate := rfl

@[simp] theorem absorbBlock_lanes (s : State) :
    (absorbBlock s).lanes = keccakF (xorBlock s.lanes (s.buf.take s.rate)) := rfl

/-- The absorb loop writes S, BUF and RND, and nothing else (rule R81). -/
theorem absorbLoop_frame (fuel : Nat) (s : State) :
    ∃ A b r, (r = s.rnd ∨ r = 0) ∧
      absorbLoop fuel s = { s with lanes := A, buf := b, rnd := r } := by
  induction fuel generalizing s with
  | zero => exact ⟨s.lanes, s.buf, s.rnd, .inl rfl, rfl⟩
  | succ fuel ih =>
    unfold absorbLoop
    split
    · obtain ⟨A, b, r, hr, h⟩ := ih (absorbBlock s)
      refine ⟨A, b, r, .inr ?_, h⟩
      rcases hr with hr | hr
      · exact hr
      · exact hr
    · exact ⟨s.lanes, s.buf, s.rnd, .inl rfl, rfl⟩

/-- ABSORB_BYTES writes S, BUF and RND, and nothing else (rule R81). -/
theorem absorbBytes_frame (m : List Byte) (s : State) :
    ∃ A b r, (r = s.rnd ∨ r = 0) ∧
      absorbBytes m s = { s with lanes := A, buf := b, rnd := r } := by
  obtain ⟨A, b, r, hr, h⟩ := absorbLoop_frame ((s.buf ++ m).length / s.rate) { s with buf := s.buf ++ m }
  exact ⟨A, b, r, hr, h⟩

@[simp] theorem absorbLoop_rate (fuel : Nat) (s : State) : (absorbLoop fuel s).rate = s.rate := by
  obtain ⟨A, b, r, -, h⟩ := absorbLoop_frame fuel s
  rw [h]; rfl

/-- The loop run to its end: as many turns as BUF holds whole blocks. -/
def drained (s : State) : State := absorbLoop (s.buf.length / s.rate) s

theorem absorbBytes_eq_drained (m : List Byte) (s : State) :
    absorbBytes m s = drained { s with buf := s.buf ++ m } := rfl

theorem drained_of_lt {s : State} (h : s.buf.length < s.rate) : drained s = s := by
  simp [drained, Nat.div_eq_of_lt h, absorbLoop]

theorem drained_of_le {s : State} (h : s.rate ≤ s.buf.length) :
    drained s = drained (absorbBlock s) := by
  have hp : 0 < s.rate := rate_pos s.var
  have h1 : s.buf.length / s.rate = (s.buf.length - s.rate) / s.rate + 1 := by
    rw [← Nat.div_eq_sub_div hp h]
  simp [drained, h1, absorbLoop, h]

/-- After ABSORB_BYTES, BUF is shorter than the rate (rule R21). -/
theorem drained_buf_length (s : State) : (drained s).buf.length < s.rate := by
  by_cases h : s.buf.length < s.rate
  · rwa [drained_of_lt h]
  · rw [drained_of_le (Nat.le_of_not_lt h)]
    exact drained_buf_length (absorbBlock s)
termination_by s.buf.length
decreasing_by
  have hp : 0 < s.rate := rate_pos s.var
  simp; omega

theorem absorbBytes_buf_length (m : List Byte) (s : State) :
    (absorbBytes m s).buf.length < s.rate :=
  drained_buf_length { s with buf := s.buf ++ m }

/-- ABSORB_BYTES that leaves BUF short of the rate only appends (rule R81). -/
theorem absorbBytes_append {m : List Byte} {s : State} (h : s.buf.length + m.length < s.rate) :
    absorbBytes m s = { s with buf := s.buf ++ m } := by
  refine drained_of_lt ?_
  show (s.buf ++ m).length < s.rate
  simpa using h

/-- ABSORB_BYTES that fills one block, and not a second, takes one turn (rule R81). -/
theorem absorbBytes_one_block {m : List Byte} {s : State} (h1 : s.rate ≤ s.buf.length + m.length)
    (h2 : s.buf.length + m.length < 2 * s.rate) :
    absorbBytes m s = absorbBlock { s with buf := s.buf ++ m } := by
  rw [absorbBytes_eq_drained, drained_of_le, drained_of_lt]
  · show ((s.buf ++ m).drop s.rate).length < s.rate
    simp; omega
  · show s.rate ≤ (s.buf ++ m).length
    simpa using h1

@[simp] theorem refill_rate (s : State) : (refill s).rate = s.rate := by
  unfold refill; split <;> rfl

/-- SQUEEZE_BYTES writes S, RND and CURSOR, and nothing else (rule R86). -/
theorem squeezeBytes_frame (n : Nat) (s : State) :
    ∃ A r c, (r = s.rnd ∨ r = 0) ∧
      (squeezeBytes n s).2 = { s with lanes := A, rnd := r, cursor := c } := by
  induction n generalizing s with
  | zero => exact ⟨s.lanes, s.rnd, s.cursor, .inl rfl, rfl⟩
  | succ n ih =>
    obtain ⟨A, r, c, hr, h⟩ := ih (squeezeByte s).2
    refine ⟨A, r, c, ?_, ?_⟩
    · unfold squeezeByte refill at hr
      split at hr
      · rcases hr with hr | hr <;> exact .inr hr
      · exact hr
    · rw [squeezeBytes, h]
      unfold squeezeByte refill
      split <;> rfl

/-- SQUEEZE_BYTES(n) delivers exactly n bytes (rules R86 and R91). -/
@[simp] theorem squeezeBytes_length (n : Nat) (s : State) : (squeezeBytes n s).1.length = n := by
  induction n generalizing s with
  | zero => rfl
  | succ n ih => simp [squeezeBytes, ih]

/-- CURSOR stays within the output block (rule R23). -/
theorem squeezeBytes_cursor_le (n : Nat) (s : State) (h : s.cursor ≤ s.rate) :
    (squeezeBytes n s).2.cursor ≤ s.rate := by
  induction n generalizing s with
  | zero => exact h
  | succ n ih =>
    have hp : 0 < s.rate := rate_pos s.var
    have hr : (squeezeByte s).2.rate = s.rate := by
      unfold squeezeByte refill; split <;> rfl
    rw [squeezeBytes, ← hr]
    apply ih
    rw [hr]
    unfold squeezeByte refill
    split
    · exact hp
    · simp; omega

/-- SQUEEZE_BYTES served by the unread bytes of the output block does not permute (rule R86). -/
theorem squeezeBytes_within (n : Nat) (s : State) (h : s.cursor + n ≤ s.rate) :
    squeezeBytes n s =
      ((List.range n).map fun k => stateByte s.lanes (s.cursor + k),
        { s with cursor := s.cursor + n }) := by
  induction n generalizing s with
  | zero => rfl
  | succ n ih =>
    have h1 : refill s = s := by
      unfold refill; rw [if_neg (by omega)]
    have h2 := ih { s with cursor := s.cursor + 1 } (by simp [State.rate] at *; omega)
    simp only [squeezeBytes, squeezeByte, h1, h2, List.range_succ_eq_map]
    simp [Function.comp_def, Nat.add_comm, Nat.add_left_comm]

/-- A used-up output block is replaced when the next byte is needed (rule R86). -/
theorem squeezeBytes_refill {n : Nat} {s : State} (hn : 0 < n) (h : s.cursor = s.rate) :
    squeezeBytes n s = squeezeBytes n { permute s with cursor := 0 } := by
  have hp : 0 < s.rate := rate_pos s.var
  obtain ⟨k, rfl⟩ : ∃ k, n = k + 1 := ⟨n - 1, by omega⟩
  have h1 : refill s = { permute s with cursor := 0 } := by unfold refill; rw [if_pos h]
  have h2 : refill { permute s with cursor := 0 } = { permute s with cursor := 0 } := by
    unfold refill
    rw [if_neg]
    simpa [State.rate] using (Nat.ne_of_lt hp)
  simp only [squeezeBytes, squeezeByte, h1, h2]

/-- FINALIZE in the ABSORBING phase (rule R83). -/
theorem finalize_absorbing {s : State} (h : s.phase = .absorbing) :
    finalize s = { s with
      lanes := keccakF (xorBlock s.lanes (pad s.rate s.buf))
      rnd := 0
      buf := []
      phase := .squeezing
      cursor := 0 } := by
  simp [finalize, h, permute]

/-- FINALIZE after the first call (rule R83). -/
theorem finalize_squeezing {s : State} (h : s.phase = .squeezing) : finalize s = s := by
  simp [finalize, h]

end Sys2Proof.Machine
end

