-- ==== Sys2Proof/Laws/Commands.lean ====
section
/-! SUPPORT. The command frame, said once (rule R94): a command fails one check and changes ERR and STICKY, or
passes them and takes its effect. -/

namespace Sys2Proof.Machine

/-- Everything the frame of rule R94 can do. -/
theorem runCommand_cases (i : Instr) (f : State → State) (s : State) :
    (check i s = .ok ∧ runCommand i f s = finish (setErr .ok (f s))) ∨
    (check i s ≠ .ok ∧ runCommand i f s = finish (raiseErr (check i s) s)) := by
  unfold runCommand
  cases h : check i s
  · exact .inl ⟨rfl, rfl⟩
  all_goals exact .inr ⟨by simp, rfl⟩

theorem runCommand_of_ok {i : Instr} {f : State → State} {s : State} (h : check i s = .ok) :
    runCommand i f s = finish (setErr .ok (f s)) := by
  unfold runCommand; rw [h]

theorem runCommand_of_fail {i : Instr} {f : State → State} {s : State} (h : check i s ≠ .ok) :
    runCommand i f s = finish (raiseErr (check i s) s) := by
  rcases runCommand_cases i f s with ⟨h', -⟩ | ⟨-, h'⟩
  · exact absurd h' h
  · exact h'

/-- The effect of each command, before the frame's ERR and BUSY (rules R95 to R98). -/
def performOf : Instr → State → State
  | .nop => id
  | .init v => performInit v
  | .absorb n => performAbsorb n
  | .squeeze n => performSqueeze n

/-- Every command runs in the same frame (rule R94). -/
theorem exec_eq_runCommand (i : Instr) (s : State) :
    exec i s = .next (runCommand i (performOf i) s) := by
  cases i <;> rfl

@[simp] theorem check_nop (s : State) : check .nop s = .ok := rfl

@[simp] theorem check_init (v : Variant) (s : State) : check (.init v) s = .ok := rfl

theorem check_absorb (n : Nat) (s : State) :
    check (.absorb n) s =
      if 4 < n then .illegalCmd
      else if s.cfg = false then .notInit
      else if s.phase = .squeezing then .invalidState
      else .ok := by
  by_cases h : 4 < n <;> simp [check, Instr.wf, maxCount, h]

theorem check_squeeze (n : Nat) (s : State) :
    check (.squeeze n) s =
      if 4 < n then .illegalCmd else if s.cfg = false then .notInit else .ok := by
  by_cases h : 4 < n <;> simp [check, Instr.wf, maxCount, h]

/-- Bit 0 of STATUS is BUSY (rule R34): 0 while no command is in progress. -/
theorem statusWord_bit0 (s : State) : (statusWord s).getLsbD 0 = false := by
  simp [statusWord]

/-- Bit 0 of STATUS is 1 while BUSY = 1, whatever the free value (rule R127). -/
theorem busyStatusWord_bit0 (draw : Nat) : (busyStatusWord draw).getLsbD 0 = true := by
  rw [busyStatusWord, BitVec.getLsbD_append]; rfl

/-- `perform(ABSORB N)` writes S, BUF and RND alone (rule R97). -/
theorem performAbsorb_frame (n : Nat) (s : State) :
    ∃ A b r, (r = s.rnd ∨ r = 0) ∧
      performAbsorb n s = { s with lanes := A, buf := b, rnd := r } :=
  absorbBytes_frame (dinBytes n s.din) s

/-- `perform(SQUEEZE N)` writes S, RND, BUF, PHASE, CURSOR and DOUT alone (rule R98). -/
theorem performSqueeze_frame (n : Nat) (s : State) :
    ∃ A r b c d, (r = s.rnd ∨ r = 0) ∧
      performSqueeze n s = { s with
        lanes := A, rnd := r, buf := b, phase := .squeezing, cursor := c, dout := d } := by
  obtain ⟨A, r, c, hr, h⟩ := squeezeBytes_frame n (finalize s)
  refine ⟨A, r, (finalize s).buf, c, packWord (squeezeBytes n (finalize s)).1, ?_, ?_⟩
  · cases hp : s.phase
    · rw [finalize_absorbing hp] at hr
      rcases hr with hr | hr <;> exact .inr hr
    · rwa [finalize_squeezing hp] at hr
  · unfold performSqueeze
    simp only [h]
    cases hp : s.phase
    · rw [finalize_absorbing hp]
    · rw [finalize_squeezing hp, ← hp]

end Sys2Proof.Machine
end

