-- ==== Sys2Proof/Laws/PerInstr.lean ====
section
/-! SUPPORT. For each command, the mask and match of its row in the opcode table (rule R68). -/

namespace Sys2Proof.Laws.MaskMatch

/-- The row's mask, as the opcode table has it. -/
def maskOf : Instr → Word
  | .nop => 0xFFFFFFFF
  | .init _ => 0xFFFFFFEF
  | .absorb _ => 0xFFFFFF8F
  | .squeeze _ => 0xFFFFFF8F

/-- The row's match, as the opcode table has it. -/
def matchOf : Instr → Word
  | .nop => 0x00000000
  | .init _ => 0x00000001
  | .absorb _ => 0x00000002
  | .squeeze _ => 0x00000003

/-- A well-formed command's word matches its row. -/
def Statement (i : Instr) : Prop := i.WellFormed → encode i &&& maskOf i = matchOf i

theorem nop : Statement .nop := fun _ => by decide

theorem init (v : Variant) : Statement (.init v) := fun _ => by cases v <;> decide

theorem absorb (n : Nat) : Statement (.absorb n) := fun h => by
  have hn : n ≤ 4 := by simpa [Instr.WellFormed, Instr.wf] using h
  interval_cases n <;> decide

theorem squeeze (n : Nat) : Statement (.squeeze n) := fun h => by
  have hn : n ≤ 4 := by simpa [Instr.WellFormed, Instr.wf] using h
  interval_cases n <;> decide

end Sys2Proof.Laws.MaskMatch
end

