-- ==== Sys2Proof/Laws/Permutation.lean ====
section
/-! SUPPORT. Reading a lane of an array built lane by lane, and equality of lane arrays. -/

namespace Sys2Proof.Machine

@[simp] theorem laneAt_lanesOf (f : Fin 5 → Fin 5 → Lane) (x y : Fin 5) :
    laneAt (lanesOf f) x y = f x y := by
  fin_cases x <;> fin_cases y <;> rfl
theorem lanes_ext_of_laneAt {A B : Lanes} (h : ∀ x y, laneAt A x y = laneAt B x y) : A = B := by
  ext1 n hn
  have := h ⟨n % 5, by omega⟩ ⟨n / 5, by omega⟩
  simpa [laneAt, show n % 5 + 5 * (n / 5) = n by omega] using this

end Sys2Proof.Machine
end

