-- ==== Sys2Proof/Laws/Step.lean ====
section
/-! SUPPORT. What a step can do, said once: the block idles, takes the host's next input, or completes the
command in progress. -/

namespace Sys2Proof.Machine

/-- What `takenWhileBusy` can give: the next input, not held, or a reset behind a held access. -/
theorem takenWhileBusy_cases {l es : List HostEvent} {e : HostEvent} (h : takenWhileBusy l = some (e, es)) :
    (l = e :: es ∧ answeredWhileBusy e = true) ∨
    (∃ a rest, l = .access a :: rest ∧ answeredWhileBusy (.access a) = false ∧
      e = .resetInput true ∧ resetBehind rest = some es) := by
  cases l with
  | nil => simp [takenWhileBusy] at h
  | cons a rest =>
    cases ha : answeredWhileBusy a
    · simp only [takenWhileBusy, ha, Bool.false_eq_true, if_false, Option.map_eq_some_iff,
        Prod.mk.injEq] at h
      obtain ⟨r, hr, rfl, rfl⟩ := h
      cases a with
      | resetInput b => simp [answeredWhileBusy] at ha
      | access a => exact .inr ⟨a, rest, rfl, ha, rfl, hr⟩
    · simp only [takenWhileBusy, ha, if_true, Option.some.injEq, Prod.mk.injEq] at h
      obtain ⟨rfl, rfl⟩ := h
      exact .inl ⟨rfl, ha⟩

/-- No reset is behind accesses alone. -/
@[simp] theorem resetBehind_map_access (as : List Access) : resetBehind (as.map .access) = none := by
  cases as <;> rfl

/-- A reset behind is one of the inputs, and fewer are left after it. -/
theorem resetBehind_mem {l es : List HostEvent} (h : resetBehind l = some es) :
    .resetInput true ∈ l ∧ es.length < l.length := by
  induction l with
  | nil => simp [resetBehind] at h
  | cons a l ih =>
    cases a with
    | access a => simp [resetBehind] at h
    | resetInput b =>
      cases b
      · obtain ⟨h1, h2⟩ := ih h
        exact ⟨.tail _ h1, Nat.lt_succ_of_lt h2⟩
      · simp only [resetBehind, Option.some.injEq] at h
        subst h
        exact ⟨.head _, Nat.lt_succ_self _⟩

/-- The inputs left after a reset behind are as legal as they were. -/
theorem hostLegal_resetBehind {l es : List HostEvent} {line : Bool} (h : resetBehind l = some es)
    (hl : hostLegal line l = true) : hostLegal true es = true := by
  induction l generalizing line with
  | nil => simp [resetBehind] at h
  | cons a l ih =>
    cases a with
    | access a => simp [resetBehind] at h
    | resetInput b =>
      cases b
      · exact ih h hl
      · simp only [resetBehind, Option.some.injEq] at h
        subst h
        exact hl

/-- An access the block takes is the host's next, and while BUSY = 1 it is one the stall does not hold. -/
theorem takes_access {s : State} {a : Access} {es : List HostEvent} (h : s.Takes (.access a) es) :
    s.events = .access a :: es ∧
      (s.busy = none ∨ ∃ c, s.busy = some c ∧ 0 < c.busyReads ∧ answeredWhileBusy (.access a) = true) := by
  rcases h with ⟨hb, he⟩ | ⟨c, hb, hc, ht⟩
  · exact ⟨he, .inl hb⟩
  · rcases takenWhileBusy_cases ht with ⟨he, ha⟩ | ⟨_, _, _, _, he, _⟩
    · exact ⟨he, .inr ⟨c, hb, hc, ha⟩⟩
    · cases he

/-- A reset input the block takes is one of the pending inputs, and fewer are left after it. -/
theorem takes_resetInput {s : State} {asserted : Bool} {es : List HostEvent}
    (h : s.Takes (.resetInput asserted) es) :
    .resetInput asserted ∈ s.events ∧ es.length < s.events.length := by
  rcases h with ⟨_, he⟩ | ⟨c, _, _, ht⟩
  · simp [he]
  · rcases takenWhileBusy_cases ht with ⟨he, _⟩ | ⟨a, rest, he, _, heq, hr⟩
    · simp [he]
    · cases heq
      obtain ⟨h1, h2⟩ := resetBehind_mem hr
      rw [he]
      exact ⟨.tail _ h1, Nat.lt_succ_of_lt h2⟩

theorem step_of_idle {s : State} (hb : s.busy = none) (he : s.events = []) : step s = .next s := by
  simp [step, hb, he]

theorem step_of_takes {s : State} {e : HostEvent} {es : List HostEvent} (h : s.Takes e es) :
    step s = hostEvent e { s with events := es } := by
  rcases h with ⟨hb, he⟩ | ⟨c, hb, hc, ht⟩
  · simp [step, hb, he]
  · simp [step, hb, taken, Nat.ne_of_gt hc, ht]

theorem step_of_due {s : State} {c : InFlight} (h : s.Due c) : step s = runWord c.word s := by
  obtain ⟨hb, h | h⟩ := h
  · cases ht : takenWhileBusy s.events <;> simp [step, hb, taken, ht, h]
  · simp [step, hb, taken, h]

/-- Every state is in one of the three cases. -/
theorem step_cases (s : State) :
    (s.busy = none ∧ s.events = []) ∨ (∃ e es, s.Takes e es) ∨ ∃ c, s.Due c := by
  cases hb : s.busy with
  | none =>
    cases he : s.events with
    | nil => exact .inl ⟨rfl, rfl⟩
    | cons e es => exact .inr (.inl ⟨e, es, .inl ⟨hb, he⟩⟩)
  | some c =>
    rcases Nat.eq_zero_or_pos c.busyReads with hc | hc
    · exact .inr (.inr ⟨c, hb, .inl hc⟩)
    · cases ht : takenWhileBusy s.events with
      | none => exact .inr (.inr ⟨c, hb, .inr ht⟩)
      | some p => exact .inr (.inl ⟨p.1, p.2, .inr ⟨c, hb, hc, ht⟩⟩)

/-- A completing word runs in the frame of rule R94, or is rejected as illegal: either way a next state. -/
theorem runWord_next (w : Word) (s : State) :
    (∃ i, decode w = .ok i ∧ runWord w s = .next (runCommand i (performOf i) s)) ∨
    (∃ r, decode w = .error r ∧ runWord w s = .next (rejectIllegal s)) := by
  unfold runWord
  cases h : decode w with
  | ok i => exact .inl ⟨i, rfl, exec_eq_runCommand i s⟩
  | error r => exact .inr ⟨r, rfl, rfl⟩

end Sys2Proof.Machine
end

