-- ==== Sys2Proof/Tests/Slice0.lean ====
section
/-! SUPPORT. The model's own tests. Expected values are the worked examples and vectors of `spec/`
(95_test_vectors.md unless another file is named), or are written out from a rule. The last part shows, for each
statement with hypotheses, a concrete case that meets them. -/

namespace Sys2Proof.Tests

open Sys2Proof.Machine

/-! ### Helpers -/

/-- The next state of an outcome. -/
def nextOf : Host.Outcome State Fault Refusal → Option State
  | .next s => some s
  | _ => none

/-- `s` after the command word `w` has run. -/
def ran (w : Nat) (s : State) : Option State := nextOf (step (s.withFetchWord 32 w))

/-- The state after INIT V. -/
def initialised (v : Variant) : State := { State.reset with cfg := true, var := v }

/-- ABSORBING with `k` bytes in BUF. -/
def buffered (v : Variant) (k : Nat) : State :=
  { initialised v with buf := List.replicate k 0xA3, din := 0xA3A3A3A3 }

/-- SQUEEZING with CURSOR = `c`. -/
def squeezed (v : Variant) (c : Nat) : State := { initialised v with phase := .squeezing, cursor := c }

/-- The host's next input is the access `a`. -/
def given (a : Access) (s : State) : State := { s with events := [.access a] }

/-- A command in progress that may be seen busy `k` times. -/
def running (w : Word) (k : Nat) (s : State) : State := { s with busy := some ⟨w, k⟩ }

/-- The lane array with lane number `n` equal to `v` and the others zero. -/
def oneLane (n : Fin 25) (v : Lane) : Lanes := Lanes.zero.set n v

/-! ### WellFormed: an ill-formed term for each check, and its legal neighbour -/

theorem test_absorb_5_ill_formed : ¬ (Instr.absorb 5).WellFormed := by decide
theorem test_absorb_4_well_formed : (Instr.absorb 4).WellFormed := by decide
theorem test_squeeze_5_ill_formed : ¬ (Instr.squeeze 5).WellFormed := by decide
theorem test_squeeze_4_well_formed : (Instr.squeeze 4).WellFormed := by decide

/-! ### Decoding: words written bit by bit from rule R58's fields, and rule R67's illegal neighbours -/

theorem test_decode_nop :
    decode 0b00000000000000000000000000000000#32 = .ok .nop := by decide
theorem test_decode_init_shake128 :
    decode 0b00000000000000000000000000000001#32 = .ok (.init .shake128) := by decide
theorem test_decode_init_shake256 :
    decode 0b00000000000000000000000000010001#32 = .ok (.init .shake256) := by decide
theorem test_decode_absorb_3 :
    decode 0b00000000000000000000000000110010#32 = .ok (.absorb 3) := by decide
theorem test_decode_squeeze_4 :
    decode 0b00000000000000000000000001000011#32 = .ok (.squeeze 4) := by decide
theorem test_decode_illegal_neighbours :
    decode 0x00000010 = .error .nopArgument ∧ decode 0x00000021 = .error .initVariant ∧
    decode 0x00000052 = .error .absorbCount ∧ decode 0x00000073 = .error .squeezeCount ∧
    decode 0x00000004 = .error .reservedOpcode ∧ decode 0x00000080 = .error .reservedBits ∧
    decode 0x80000043 = .error .reservedBits := by decide
theorem test_decodeTableWord :
    decodeTableWord 32 0x42 = some (.absorb 4) ∧ decodeTableWord 32 0x52 = none := by decide
/-- Rule R65's worked example. -/
theorem test_encode_absorb_3 : encode (.absorb 3) = 0x00000032 := by decide

/-! ### Commands -/

/-- V-C1. -/
theorem test_nop_at_reset : (ran 0x00000000 .reset).map statusWord = some 0x00000000 := by decide
/-- Rule R95's example: after a failed ABSORB, NOP clears ERR and leaves STICKY. -/
theorem test_nop_keeps_sticky :
    ((ran 0x00000002 (squeezed .shake128 0)).map statusWord = some 0x0000007A) ∧
    (((ran 0x00000002 (squeezed .shake128 0)).bind (ran 0x00000000)).map statusWord =
      some 0x0000004A) := by decide
/-- V-C5. -/
theorem test_init_shake256 : (ran 0x00000011 .reset).map statusWord = some 0x00000006 := by decide
/-- V-C16: INIT clears STICKY and DOUT, and not DIN (rule R96). -/
theorem test_init_new_instance :
    (ran 0x00000001 { squeezed .shake128 4 with sticky := true, dout := 0xA42B9C7F, din := 0xAA }).map
      (fun s => (statusWord s, s.dout, s.din)) = some (0x00000002, 0, 0xAA) := by decide
/-- Rule R97's example: "abc" from DIN = 0x00636261. -/
theorem test_absorb_abc :
    (ran 0x00000032 { initialised .shake256 with din := 0x00636261 }).map
      (fun s => (statusWord s, s.buf)) = some (0x00000306, [0x61, 0x62, 0x63]) := by decide
/-- V-C3: NOT_INIT with N = 0. -/
theorem test_absorb_before_init : (ran 0x00000002 .reset).map statusWord = some 0x00000060 := by decide
/-- V-C2. -/
theorem test_squeeze_before_init : (ran 0x00000043 .reset).map statusWord = some 0x00000060 := by decide
/-- Rule R98's example, from reset: INIT SHAKE128, then SQUEEZE 4. -/
theorem test_squeeze_empty_message :
    ((ran 0x00000001 .reset).bind (ran 0x00000043)).map (fun s => (s.dout, statusWord s)) =
      some (0xA42B9C7F, 0x0004000A) := by decide +kernel
/-- V-C13: SQUEEZE 0 with the output block used up does not permute. -/
theorem test_squeeze_0_at_block_end :
    (ran 0x00000003 (squeezed .shake128 168)).map (fun s => (statusWord s, s.lanes)) =
      some (0x00A8000A, Lanes.zero) := by decide
/-- V-C4: ILLEGAL_CMD comes before NOT_INIT. -/
theorem test_illegal_before_not_init :
    (ran 0x00000052 .reset).map statusWord = some 0x00000050 := by decide
/-- Rules R105 and R110 on the command itself, for a count the encoding cannot hold legally. -/
theorem test_exec_ill_formed :
    (nextOf (exec (.squeeze 5) (initialised .shake128))).map statusWord = some 0x00000052 := by decide

/-! ### The permutation -/

/-- V-T1. -/
theorem test_theta_wraps :
    let A := theta (oneLane 1 0x8000000000000000)
    A[0] = 1 ∧ A[1] = 0x8000000000000000 ∧ A[2] = 0x8000000000000000 ∧ A[3] = 0 ∧ A[20] = 1 ∧
      A[22] = 0x8000000000000000 := by decide
/-- V-T2. -/
theorem test_rho_lane_24 : rho (oneLane 24 0x8000000000000001) = oneLane 24 0x0000000000006000 := by
  decide +kernel
/-- V-T4 and V-T5. -/
theorem test_pi_moves :
    piStep (oneLane 6 1) = oneLane 1 1 ∧ piStep (oneLane 1 5) = oneLane 10 5 := by decide +kernel
/-- V-T9. -/
theorem test_chi_masks :
    chi ((oneLane 1 0xFF).set 2 0xF0) = ((oneLane 1 0xFF).set 2 0xF0).set 4 0xFF := by decide +kernel
/-- V-T11 and V-T12. -/
theorem test_iota_ends :
    iota Lanes.zero 23 = oneLane 0 0x8000000080008008 ∧ iota (oneLane 0 1) 0 = Lanes.zero := by
  decide +kernel
/-- V-P1, at the first and the last lane. -/
theorem test_keccak_of_zero :
    (keccakF Lanes.zero)[0] = 0xF1258F7940E1DDE7 ∧ (keccakF Lanes.zero)[24] = 0xEAF1FF7B5CECA249 := by
  decide +kernel

/-! ### Bytes and padding -/

/-- Rule R19's worked example: S_byte[167] is the top byte of lane 20. -/
theorem test_stateByte_167 : stateByte (oneLane 20 0x9F00000000000000) 167 = 0x9F := by decide
/-- Rule R47's worked example. -/
theorem test_dinBytes : dinBytes 3 0x00636261 = [0x61, 0x62, 0x63] := by decide
/-- Rule R48's worked example. -/
theorem test_packWord : packWord [0x7f, 0x9c, 0x2b, 0xa4] = 0xA42B9C7F := by decide
/-- Rule R82's example. -/
theorem test_xorBlock_of_padding :
    xorBlock Lanes.zero (pad 168 []) = (oneLane 0 0x1F).set 20 0x8000000000000000 := by decide +kernel
/-- V-S0, VAR = 1 and L = 135: suffix and final bit in one byte. -/
theorem test_pad_full : (pad 136 (List.replicate 135 0xA3)).drop 134 = [0xA3, 0x9F] := by decide +kernel
/-- Rule R73's example. -/
theorem test_rhoOffset : rhoOffset 1 0 = 1 ∧ rhoOffset 0 2 = 3 ∧ rhoOffset 2 1 = 6 := by decide

/-! ### The register window and a command in progress -/

/-- Rule R40: an aligned access of another width, and a misaligned one, get a bus error. -/
theorem test_bad_accesses : (⟨0x04, 1, .read⟩ : Access).target = none ∧
    (⟨0x04, 8, .read⟩ : Access).target = none ∧ (⟨0x06, 4, .read⟩ : Access).target = none ∧
    (⟨0x1C, 4, .read⟩ : Access).target = none ∧ (⟨0x0C, 4, .read⟩ : Access).target = some .status := by
  decide
/-- Rule R44: a DIN write. -/
theorem test_din_write :
    (nextOf (step (given (wrDin 0x00636261) .reset))).map (·.din) = some 0x00636261 := by decide
/-- Rule R43: a CMD read returns 0. -/
theorem test_cmd_read :
    (nextOf (step (given ⟨0x00, 4, .read⟩ .reset))).map (·.replies) = some [0] := by decide
/-- Rules R43 and R125: a CMD write is accepted in one step, and the command completes in the next. -/
theorem test_cmd_write_then_completion :
    ((nextOf (step (given (wrCmd (.init .shake256)) .reset))).bind fun s => nextOf (step s)).map
      (fun s => (statusWord s, s.busy)) = some (0x00000006, none) := by decide
/-- Rules R120 and R121: a reset behind an access that the stall holds, before the command completes (one busy
access left) and after (none left); the held access is not performed in either step. -/
theorem test_reset_behind_held_access :
    let s : State := { squeezed .shake128 5 with events := [.access (wrDin 7), .resetInput true] }
    step (running 0x11 1 s) = .next { State.reset with resetLine := true } ∧
    step (running 0x11 0 s) = .next { initialised .shake256 with events := s.events } := ⟨rfl, rfl⟩
/-- Rule R66's WAIT, from BUSY = 1 with no busy read left and from BUSY = 0: one read, and bit 0 is 0. -/
theorem test_wait :
    (nextOf (wait (running 0x11 0 .reset))).map (fun t => (t.busy, t.replies)) = some (none, [6]) ∧
    (nextOf (wait .reset)).map (fun t => (t.busy, t.replies)) = some (none, [0]) := by decide
/-- Rule R38: the last byte of the window, and the one after it. -/
theorem test_window_edges :
    busAccess ⟨2⟩ 95 4 .read = some ⟨31, 4, .read⟩ ∧ busAccess ⟨2⟩ 96 4 .read = none ∧
    busAccess ⟨2⟩ 63 4 .read = none := by decide

/-! ### Witnesses: for each statement with hypotheses, a case that meets them -/

/-- A state of the invariant whose next step completes INIT. -/
theorem witness_StepKeepsTheInvariant :
    State.Inv (running 0x11 0 .reset) ∧
    step (running 0x11 0 .reset) = .next (initialised .shake256) := ⟨by decide, rfl⟩
theorem witness_ResetInputResetsEveryElement :
    State.Takes { running 0x43 1 (squeezed .shake128 5) with events := [.resetInput true] }
      (.resetInput true) [] ∧
    State.Takes { running 0x43 1 (squeezed .shake128 5) with
      events := [.access rdDout, .resetInput true, .resetInput false] } (.resetInput true)
      [.resetInput false] :=
  ⟨.inr ⟨_, rfl, by decide, rfl⟩, .inr ⟨_, rfl, by decide, rfl⟩⟩
theorem witness_AccessDuringResetIsRefused :
    let s := { given rdStatus State.reset with resetLine := true }
    s.events = .access rdStatus :: [] ∧ s.busy = none ∧ s.resetLine = true := ⟨rfl, rfl, rfl⟩
theorem witness_IdleBlockKeepsItsState :
    (squeezed .shake256 136).busy = none ∧ (squeezed .shake256 136).events = [] := ⟨rfl, rfl⟩
theorem witness_DecodeOfEncode : (Instr.squeeze 4).WellFormed := by decide
theorem witness_StepRunsTheDecodedCommand :
    State.Due (running 0x42 3 (given (wrDin 1) (buffered .shake256 135))) ⟨0x42, 3⟩ ∧
    decode 0x42 = .ok (.absorb 4) :=
  ⟨⟨rfl, .inr rfl⟩, by decide⟩
theorem witness_IllegalWordRunsNothing :
    State.Due (running 0x80000043 0 (squeezed .shake128 168)) ⟨0x80000043, 0⟩ ∧
    decode 0x80000043 = .error .reservedBits := ⟨⟨rfl, .inl rfl⟩, by decide⟩
theorem witness_IllegalCmdIsRaisedExactly :
    State.Due (running 0x52 0 .reset) ⟨0x52, 0⟩ := ⟨rfl, .inl rfl⟩
theorem witness_AbsorbAppendsToBuffer :
    let s := buffered .shake128 163
    4 ≤ 4 ∧ s.cfg = true ∧ s.phase = .absorbing ∧ s.buf.length + 4 < s.rate := by decide +kernel
theorem witness_AbsorbTakesOneBlock :
    let s := buffered .shake256 135
    1 ≤ 4 ∧ s.cfg = true ∧ s.phase = .absorbing ∧ s.buf.length < s.rate ∧
      s.rate ≤ s.buf.length + 1 := by decide +kernel
theorem witness_FirstSqueezeFinalizes :
    let s := buffered .shake256 135
    0 ≤ 4 ∧ s.cfg = true ∧ s.phase = .absorbing := by decide
theorem witness_SqueezeWithinTheBlock :
    let s := squeezed .shake128 164
    4 ≤ 4 ∧ s.cfg = true ∧ s.phase = .squeezing ∧ s.cursor + 4 ≤ s.rate := by decide
theorem witness_SqueezeAcrossTheBlock :
    let s := squeezed .shake256 136
    1 ≤ 4 ∧ s.cfg = true ∧ s.phase = .squeezing ∧ s.cursor ≤ s.rate ∧ s.rate < s.cursor + 1 := by decide
theorem witness_FailureChangesOnlyErrAndSticky :
    State.Due (running 0x43 0 .reset) ⟨0x43, 0⟩ ∧
    step (running 0x43 0 .reset) = .next { State.reset with err := .notInit, sticky := true } ∧
    ({ State.reset with err := .notInit, sticky := true } : State).err ≠ .ok :=
  ⟨⟨rfl, .inl rfl⟩, rfl, by decide⟩
theorem witness_CommandFrame :
    exec (.init .shake128) (running 0x01 0 .reset) = .next (initialised .shake128) := rfl
theorem witness_AbsorbFrame :
    exec (.absorb 0) State.reset = .next { State.reset with err := .notInit, sticky := true } ∧
    (0 = 0) ∧ State.reset.buf.length < State.reset.rate := ⟨rfl, rfl, by decide⟩
theorem witness_SqueezeFrame :
    exec (.squeeze 0) (squeezed .shake128 168) = .next (squeezed .shake128 168) ∧
    (squeezed .shake128 168).err = .ok ∧ (squeezed .shake128 168).phase = .squeezing :=
  ⟨by rfl, rfl, rfl⟩
theorem witness_OnlyInitOrResetSelectsTheInstance :
    step (running 0x11 0 .reset) = .next (initialised .shake256) ∧
    (initialised .shake256).cfg ≠ State.reset.cfg ∧ (initialised .shake256).var ≠ State.reset.var :=
  ⟨rfl, by decide, by decide⟩
theorem witness_PhaseChangesOnlyAtItsWriters :
    step (running 0x01 0 (squeezed .shake128 7)) = .next (initialised .shake128) ∧
    (squeezed .shake128 7).phase = .squeezing ∧ (initialised .shake128).phase = .absorbing ∧
    ((nextOf (step (running 0x03 0 (initialised .shake128)))).map (·.phase)) = some .squeezing :=
  ⟨rfl, rfl, rfl, by decide +kernel⟩
theorem witness_StickyStaysUntilInitOrReset :
    step (running 0x01 0 { squeezed .shake128 7 with sticky := true }) =
      .next (initialised .shake128) ∧ (initialised .shake128).sticky = false := ⟨rfl, rfl⟩
theorem witness_DataRegistersChangeOnlyAtTheirWriters :
    step (given (wrDin 5) .reset) = .next { State.reset with din := 5 } ∧
    ({ State.reset with din := 5 } : State).din ≠ State.reset.din ∧
    step (running 0x01 0 { initialised .shake128 with dout := 9 }) = .next (initialised .shake128) ∧
    (initialised .shake128).dout ≠ 9 := ⟨rfl, by decide, rfl, by decide⟩
theorem witness_OnlyCmdWritesHaveSideEffects :
    step (given rdDout .reset) = .next { State.reset with replies := [0] } ∧ rdDout.op = .read ∧
    step (given (wrDin 5) .reset) = .next { State.reset with din := 5 } ∧
    (wrDin 5).op = .write 5 ∧ (wrDin 5).off ≠ 0x00 := ⟨rfl, rfl, rfl, rfl, by decide⟩
/-- For CmdAccesses, DinAccesses and DoutAccesses: each clause's access, with BUSY = 0 and reset low. -/
theorem witness_RegisterAccesses :
    State.reset.busy = none ∧ State.reset.resetLine = false ∧
    (given (wrCmdWord 7) State.reset).events = .access ⟨0x00, 4, .write 7⟩ :: [] ∧
    (given ⟨0x00, 4, .read⟩ State.reset).events = .access ⟨0x00, 4, .read⟩ :: [] ∧
    (given (wrDin 7) State.reset).events = .access ⟨0x04, 4, .write 7⟩ :: [] ∧
    (given ⟨0x04, 4, .read⟩ State.reset).events = .access ⟨0x04, 4, .read⟩ :: [] ∧
    (given rdDout State.reset).events = .access ⟨0x08, 4, .read⟩ :: [] ∧
    (given ⟨0x08, 4, .write 7⟩ State.reset).events = .access ⟨0x08, 4, .write 7⟩ :: [] :=
  ⟨rfl, rfl, rfl, rfl, rfl, rfl, rfl, rfl⟩
theorem witness_StatusAccesses :
    let s := { given rdStatus (buffered .shake128 167) with cursor := 168 }
    s.busy = none ∧ s.resetLine = false ∧ s.events = .access ⟨0x0C, 4, .read⟩ :: [] ∧
      s.buf.length ≤ 167 ∧ s.cursor ≤ 168 ∧
      (given ⟨0x0C, 4, .write 1⟩ s).events = .access ⟨0x0C, 4, .write 1⟩ :: [] := by decide +kernel
theorem witness_MalformedAccessGetsABusError :
    let s := running 0x43 1 (given ⟨0x1F, 4, .read⟩ (squeezed .shake128 0))
    s.Takes (.access ⟨0x1F, 4, .read⟩) [] ∧ s.resetLine = false ∧ ¬ 4 ∣ 0x1F :=
  ⟨.inr ⟨_, rfl, by decide, rfl⟩, rfl, by decide⟩
theorem witness_ReservedOffsetGetsABusError :
    let s := given ⟨0x1C, 4, .write 0⟩ State.reset
    s.Takes (.access ⟨0x1C, 4, .write 0⟩) [] ∧ s.resetLine = false := ⟨.inl ⟨rfl, rfl⟩, rfl⟩
theorem witness_WindowIsTheThirtyTwoBytesAtPBase :
    63 < (WindowBase.mk 2).addr ∧ (WindowBase.mk 2).addr + 32 ≤ 96 := by decide
theorem witness_StallHoldsTheAccess :
    let a : Access := ⟨0x0C, 4, .write 0⟩
    let s := running 0x42 9 (given a (buffered .shake128 0))
    s.busy = some ⟨0x42, 9⟩ ∧ s.events = .access a :: [] ∧ a.bytes = 4 ∧ a.off = 0x0C ∧
      ∃ w, a.op = .write w := ⟨rfl, rfl, rfl, rfl, _, rfl⟩
/-- The same statement's second outcome: the next state there is reached by a reset behind the held access. -/
theorem witness_StallHoldsTheAccess_reset :
    let s := running 0x42 9 { buffered .shake128 0 with events := [.access rdDout, .resetInput true] }
    s.busy = some ⟨0x42, 9⟩ ∧ s.events = .access rdDout :: [.resetInput true] ∧ rdDout.bytes = 4 ∧
      rdDout.off = 0x08 ∧ step s = .next { State.reset with resetLine := true } :=
  ⟨rfl, rfl, rfl, rfl, rfl⟩
theorem witness_StatusReadWhileBusy :
    let s := running 0x42 1 (given rdStatus (buffered .shake128 0))
    s.busy = some ⟨0x42, 1⟩ ∧ 0 < 1 ∧ s.resetLine = false ∧
      s.events = .access ⟨0x0C, 4, .read⟩ :: [] := ⟨rfl, by decide, rfl, rfl⟩
/-- One step that leaves BUSY at 1, and one that completes the command. -/
theorem witness_CommandsAreAtomic :
    (∃ t, step (running 0x11 1 (given rdStatus .reset)) = .next t ∧ t.busy ≠ none) ∧
    step (running 0x11 0 .reset) = .next (initialised .shake256) ∧
    (initialised .shake256).busy = none := ⟨⟨_, rfl, by decide⟩, rfl, rfl⟩
theorem witness_EveryCommandCompletes :
    let s := running 0x11 2 { State.reset with events := [.access rdStatus, .access rdStatus] }
    s.busy = some ⟨0x11, 2⟩ ∧ s.HostLegal := ⟨rfl, by decide⟩
theorem witness_EveryCommandCompletes_reset :
    let s := running 0x11 2 { State.reset with events := [.access rdStatus, .access rdDout, .resetInput true] }
    s.busy = some ⟨0x11, 2⟩ ∧ s.HostLegal := ⟨rfl, by decide⟩
theorem witness_LegalHostNeverStopsTheBlock :
    State.HostLegal { State.reset with
      events := [.resetInput true, .resetInput false, .access (wrDin 1)] } := by decide
theorem witness_RotationMovesEveryBit : 1 < 64 ∧ 63 < 64 := by decide
/-- The hypotheses of ThetaMixesColumnParities, which define C and D. -/
theorem witness_ThetaMixesColumnParities (A : Lanes) :
    ∃ C D : Fin 5 → Lane,
      (∀ x, C x = laneAt A x 0 ^^^ laneAt A x 1 ^^^ laneAt A x 2 ^^^ laneAt A x 3 ^^^ laneAt A x 4) ∧
      (∀ x, D x = C (x + 4) ^^^ rotl64 (C (x + 1)) 1) := ⟨_, _, fun _ => rfl, fun _ => rfl⟩
/-- The hypothesis of IotaInjectsTheGeneratedConstant's second clause: from every state there is such a sequence
of states, round by round. -/
theorem witness_IotaInjectsTheGeneratedConstant (A : Lanes) :
    ∃ B : Nat → Lanes, B 0 = A ∧
      ∀ ir : Fin 24, B (ir.val + 1) = iota (chi (piStep (rho (theta (B ir.val))))) ir :=
  ⟨Nat.rec A fun k B => if h : k < 24 then keccakRound B ⟨k, h⟩ else B, rfl, fun ir => by
    simp [keccakRound]⟩
theorem witness_StateBytesAreLittleEndian : 7 < 8 ∧ 167 / 8 = (0 : Fin 5).val + 5 * (4 : Fin 5).val := by
  decide
theorem witness_XorBlockReachesTheFirstBytesAlone :
    167 < 200 ∧ (pad 168 [])[167]? = some 0x80 ∧ (pad 168 []).length ≤ 168 := by decide +kernel
theorem witness_PaddingIsTheBitRule : (buffered .shake256 135).buf.length < rate .shake256 := by decide +kernel
theorem witness_DoutBytesInStreamOrder : [0x7f#8, 0x9c, 0x2b, 0xa4].length ≤ 4 ∧ 3 < 4 := by decide
theorem witness_OutputIsTheClosedFormStream :
    (∀ p ∈ [((0xAA : Word), Instr.absorb 1), (0, .squeeze 4), (0, .absorb 1)], ∀ u, p.2 ≠ .init u) ∧
    4 ≤ 4 := by
  simp
theorem witness_BufferMayBeKeptInsideTheState :
    (buffered .shake128 167).buf.length < (buffered .shake128 167).rate ∧
    (buffered .shake128 167).phase = .absorbing := by decide +kernel
theorem witness_CapacityIsNotDelivered :
    let s := squeezed .shake256 132
    s.cfg = true ∧ s.phase = .squeezing ∧ s.cursor + 4 ≤ s.rate ∧
      (∀ j, j < s.rate → stateByte (oneLane 17 1) j = stateByte s.lanes j) ∧
      oneLane 17 1 ≠ s.lanes := by decide +kernel
theorem witness_FacadeDeliversTheStream :
    (squeezed .shake128 168).busy = none ∧ (squeezed .shake128 168).resetLine = false := ⟨rfl, rfl⟩

end Sys2Proof.Tests
end

section
/-! Proofs for the family `00_scope.md`: the register window (rules R7, R12 and R38), ROTL64 (rule R9), and rate
and capacity (rules R5 and R6). -/

namespace Sys2Proof.Machine

/-! ### Rate and capacity -/

/-- The truncated subtraction in `cap` cuts nothing off, because no rate is above the state's 200 bytes. -/
theorem rate_add_cap (v : Variant) : rate v + cap v = 200 := by
  have h : rate v ≤ 200 := (rate_le v).trans (by decide)
  exact Nat.add_sub_cancel' h

/-- Settles O54. -/
theorem rateAndCapacityFillTheState : Obligations.RateAndCapacityFillTheState :=
  ⟨rate_add_cap, rfl, rfl, rfl, rfl⟩

/-! ### ROTL64 -/

/-- The case `n = 0`, which `rotl64` keeps apart, is one where `BitVec.rotateLeft` shifts right by 64, to zero. -/
theorem rotl64_eq_rotateLeft (v : Lane) {n : Nat} (hn : n < 64) : rotl64 v n = v.rotateLeft n := by
  rw [BitVec.rotateLeft_def, Nat.mod_eq_of_lt hn]
  by_cases h : n = 0
  · have hzero : v >>> 64 = 0#64 := BitVec.ushiftRight_eq_zero le_rfl
    simp [rotl64, h, hzero]
  · simp [rotl64, h]

/-- Settles O45. The bits below `64 - n` move up; the `n` bits above them wrap round to the bottom. -/
theorem rotationMovesEveryBit : Obligations.RotationMovesEveryBit := by
  intro v n z hn hz
  rw [rotl64_eq_rotateLeft v hn, BitVec.getLsbD_rotateLeft, Nat.mod_eq_of_lt hn]
  by_cases hwrap : z + n < 64
  · have hpos : (z + n) % 64 = z + n := Nat.mod_eq_of_lt hwrap
    simp [hpos, hwrap]
  · have hpos : (z + n) % 64 = z + n - 64 := by omega
    have hlow : z + n - 64 < n := by omega
    have hback : 64 - n + (z + n - 64) = z := by omega
    simp [hpos, hlow, hback]

/-! ### The register window -/

theorem addr_mod_32 (base : WindowBase) : base.addr % 32 = 0 := Nat.mul_mod_right 32 base.page

theorem busAccess_inside (base : WindowBase) (off : Fin 32) (bytes : Nat) (op : AccessOp) :
    busAccess base (base.addr + off.val) bytes op = some ⟨off, bytes, op⟩ := by
  have hin : base.addr + off.val - base.addr < 32 ∧ base.addr ≤ base.addr + off.val := by omega
  simp [busAccess, hin]

/-- Below the window the truncated difference `addr - base.addr` is 0, so it is the second half of `busAccess`'s
guard that keeps such an access out. -/
theorem busAccess_outside {base : WindowBase} {addr : Nat} (h : addr < base.addr ∨ base.addr + 32 ≤ addr)
    (bytes : Nat) (op : AccessOp) : busAccess base addr bytes op = none := by
  have hout : ¬ (addr - base.addr < 32 ∧ base.addr ≤ addr) := by omega
  exact dif_neg hout

/-- Settles O39. -/
theorem windowIsTheThirtyTwoBytesAtPBase : Obligations.WindowIsTheThirtyTwoBytesAtPBase :=
  fun base bytes op =>
    ⟨addr_mod_32 base, fun off => busAccess_inside base off bytes op, fun _ h => busAccess_outside h bytes op⟩

end Sys2Proof.Machine
end

section
/-! Proofs for the family `10_state.md`: what a step can do, case by case; the invariant of rule R37 (with rules R77
and R120); which step writes which element (rules R22, R25, R26, R29, R31 and R32); the frames of the commands;
STATUS reads while BUSY = 1 and the host's WAIT (rules R66 and R127); and the byte view of S (rules R18 and R19). -/

namespace Sys2Proof.Machine

/-! ### What each operation leaves unchanged -/

/-- A register access writes DIN, BUSY, the replies and the draw count at most (rule R51). -/
@[simp] theorem serve_unchanged (r : Reg) (op : AccessOp) (s : State) :
    (serve r op s).lanes = s.lanes ∧ (serve r op s).buf = s.buf ∧ (serve r op s).phase = s.phase ∧
    (serve r op s).cursor = s.cursor ∧ (serve r op s).cfg = s.cfg ∧ (serve r op s).var = s.var ∧
    (serve r op s).err = s.err ∧ (serve r op s).sticky = s.sticky ∧ (serve r op s).dout = s.dout ∧
    (serve r op s).rnd = s.rnd ∧ (serve r op s).resetLine = s.resetLine ∧
    (serve r op s).events = s.events := by
  cases r with
  | status =>
    cases op with
    | read => cases hb : s.busy <;> simp [serve, hb, replyBusyStatus]
    | write w => simp [serve]
  | cmd => cases op <;> simp [serve]
  | din => cases op <;> simp [serve]
  | dout => cases op <;> simp [serve]

/-- DIN's one writer among the register accesses is a write of DIN (rule R44). -/
theorem serve_din_cases (r : Reg) (op : AccessOp) (s : State) :
    (serve r op s).din = s.din ∨ ∃ w, r = .din ∧ op = .write w ∧ (serve r op s).din = w := by
  cases r with
  | din =>
    cases op with
    | read => exact .inl rfl
    | write w => exact .inr ⟨w, rfl, rfl, rfl⟩
  | status =>
    cases op with
    | read => cases hb : s.busy <;> simp [serve, hb, replyBusyStatus]
    | write w => exact .inl rfl
  | cmd => cases op <;> exact .inl rfl
  | dout => cases op <;> exact .inl rfl

/-- Only a 32-bit access at offset 4 reaches DIN (rules R39 and R40). -/
theorem off_bytes_of_target_din {a : Access} (h : a.target = some .din) : a.off = 0x04 ∧ a.bytes = 4 := by
  unfold Access.target at h
  split at h
  · cases h
  next hshape =>
    have hoff : a.off.val = 4 := by
      unfold regAt at h
      split_ifs at h with hcmd hdin <;> cases h
      exact hdin
    exact ⟨Fin.ext hoff, by omega⟩

@[simp] theorem performAbsorb_unchanged (n : Nat) (s : State) :
    (performAbsorb n s).phase = s.phase ∧ (performAbsorb n s).cursor = s.cursor ∧
    (performAbsorb n s).cfg = s.cfg ∧ (performAbsorb n s).var = s.var ∧
    (performAbsorb n s).sticky = s.sticky ∧ (performAbsorb n s).dout = s.dout := by
  obtain ⟨A, b, r, -, h⟩ := performAbsorb_frame n s
  simp [h]

@[simp] theorem performAbsorb_rate (n : Nat) (s : State) : (performAbsorb n s).rate = s.rate := by
  simp [State.rate]

@[simp] theorem performSqueeze_unchanged (n : Nat) (s : State) :
    (performSqueeze n s).cfg = s.cfg ∧ (performSqueeze n s).var = s.var ∧
    (performSqueeze n s).sticky = s.sticky := by
  obtain ⟨A, r, b, c, d, -, h⟩ := performSqueeze_frame n s
  simp [h]

@[simp] theorem performSqueeze_rate (n : Nat) (s : State) : (performSqueeze n s).rate = s.rate := by
  simp [State.rate]

@[simp] theorem performSqueeze_phase (n : Nat) (s : State) : (performSqueeze n s).phase = .squeezing := by
  obtain ⟨A, r, b, c, d, -, h⟩ := performSqueeze_frame n s
  simp [h]

/-- No command's effect reaches DIN, the reset input or the host's side (rules R31 and R53). -/
@[simp] theorem performOf_unchanged (i : Instr) (s : State) :
    (performOf i s).din = s.din ∧ (performOf i s).resetLine = s.resetLine ∧
    (performOf i s).events = s.events ∧ (performOf i s).replies = s.replies ∧
    (performOf i s).draws = s.draws := by
  cases i with
  | nop => simp [performOf]
  | init v => simp [performOf, performInit]
  | absorb n =>
    obtain ⟨A, b, r, -, h⟩ := performAbsorb_frame n s
    simp [performOf, h]
  | squeeze n =>
    obtain ⟨A, r, b, c, d, -, h⟩ := performSqueeze_frame n s
    simp [performOf, h]

/-- RND rests at 0 over every command (rule R77). -/
theorem performOf_rnd {s : State} (i : Instr) (h : s.rnd = 0) : (performOf i s).rnd = 0 := by
  cases i with
  | nop => exact h
  | init v => exact h
  | absorb n =>
    obtain ⟨A, b, r, hr, hs⟩ := performAbsorb_frame n s
    rw [h, or_self] at hr
    simp [performOf, hs, hr]
  | squeeze n =>
    obtain ⟨A, r, b, c, d, hr, hs⟩ := performSqueeze_frame n s
    rw [h, or_self] at hr
    simp [performOf, hs, hr]

theorem check_absorb_eq_ok {n : Nat} {s : State} (h : check (.absorb n) s = .ok) :
    n ≤ 4 ∧ s.cfg = true ∧ s.phase = .absorbing := by
  rw [check_absorb] at h
  split_ifs at h with hn hcfg hphase
  refine ⟨not_lt.mp hn, by simpa using hcfg, ?_⟩
  cases hp : s.phase with
  | absorbing => rfl
  | squeezing => exact absurd hp hphase

theorem check_squeeze_eq_ok {n : Nat} {s : State} (h : check (.squeeze n) s = .ok) :
    n ≤ 4 ∧ s.cfg = true := by
  rw [check_squeeze] at h
  split_ifs at h with hn hcfg
  exact ⟨not_lt.mp hn, by simpa using hcfg⟩

/-! ### Frames of the commands -/

/-- Settles O25, on both outcomes of the frame of rule R94. -/
theorem commandFrame : Obligations.CommandFrame := by
  intro i s t h
  rw [exec_eq_runCommand, Host.Outcome.next.injEq] at h
  subst h
  rcases runCommand_cases i (performOf i) s with ⟨-, h⟩ | ⟨-, h⟩ <;> simp [h]

/-- ABSORB of no bytes leaves S and BUF, since there is no full block to take (rule R97). -/
theorem performAbsorb_zero {s : State} (h : s.buf.length < s.rate) : performAbsorb 0 s = s := by
  have happ : absorbBytes [] s = { s with buf := s.buf ++ [] } := absorbBytes_append (by simpa using h)
  rw [List.append_nil] at happ
  exact happ

/-- Settles O26: an ABSORB that passes writes S, BUF and RND, and one that fails ERR and STICKY. -/
theorem absorbFrame : Obligations.AbsorbFrame := by
  intro n s t h
  obtain ⟨hdin, -⟩ := commandFrame _ s t h
  rw [exec_eq_runCommand, Host.Outcome.next.injEq] at h
  subst h
  rcases runCommand_cases (.absorb n) (performOf (.absorb n)) s with ⟨-, h⟩ | ⟨hfail, h⟩
  · rw [h] at hdin ⊢
    obtain ⟨hphase, hcursor, hcfg, hvar, hsticky, hdout⟩ := performAbsorb_unchanged n s
    refine ⟨hphase, hcursor, hcfg, hvar, hdin, hdout, fun _ => hsticky, ?_⟩
    rintro rfl hbuf
    simp [performOf, performAbsorb_zero hbuf]
  · simp [h, hfail]

/-! ### What a step can do -/

/-- The step from `s` to `t` completed the command `i`, which passed its checks. -/
def Completed (s t : State) (i : Instr) : Prop :=
  ∃ c, s.Due c ∧ decode c.word = .ok i ∧ check i s = .ok ∧ t = finish (setErr .ok (performOf i s))

/-- The step from `s` to `t` took a reset input that resets: it goes high, or is released (rule R120). -/
def ResetTaken (s t : State) : Prop :=
  ∃ asserted, s.Takes (.resetInput asserted) t.events ∧ (asserted = true ∨ s.resetLine = true) ∧
    t = { resetElements s with resetLine := asserted, events := t.events }

/-- The ways a step from `s` gives the next state `t`. -/
inductive StepCase (s t : State) : Prop where
  | idle (ht : t = s)
  | resetStaysLow (es : List HostEvent) (hline : s.resetLine = false) (ht : t = { s with events := es })
  | reset (h : ResetTaken s t)
  | access (a : Access) (r : Reg) (es : List HostEvent) (htakes : s.Takes (.access a) es)
      (hline : s.resetLine = false) (hreg : a.target = some r) (ht : t = serve r a.op { s with events := es })
  | fails (c : InFlight) (code : ErrCode) (hdue : s.Due c) (ht : t = finish (raiseErr code s))
  | completes (i : Instr) (h : Completed s t i)

theorem driveReset_of_resets {asserted : Bool} {s : State} (h : asserted = true ∨ s.resetLine = true) :
    driveReset asserted s = { resetElements s with resetLine := asserted } := by
  simp [driveReset, h]

theorem driveReset_of_low {s : State} (h : s.resetLine = false) : driveReset false s = s := by
  simp [driveReset, h]

theorem stepCase_of_hostEvent {s t : State} {e : HostEvent} {es : List HostEvent} (htakes : s.Takes e es)
    (h : hostEvent e { s with events := es } = .next t) : StepCase s t := by
  cases e with
  | resetInput asserted =>
    cases h
    by_cases hreset : asserted = true ∨ s.resetLine = true
    · rw [driveReset_of_resets (s := { s with events := es }) hreset]
      exact .reset ⟨asserted, htakes, hreset, rfl⟩
    · rw [not_or, Bool.not_eq_true, Bool.not_eq_true] at hreset
      obtain ⟨rfl, hline⟩ := hreset
      exact .resetStaysLow es hline (driveReset_of_low hline)
  | access a =>
    by_cases hline : s.resetLine = true
    · simp [hostEvent, hline] at h
    · cases hreg : a.target with
      | none => simp [hostEvent, hline, hreg] at h
      | some r =>
        have ht : serve r a.op { s with events := es } = t := by simpa [hostEvent, hline, hreg] using h
        exact .access a r es htakes (by simpa using hline) hreg ht.symm

theorem stepCase_of_runWord {s t : State} {c : InFlight} (hdue : s.Due c) (h : runWord c.word s = .next t) :
    StepCase s t := by
  rcases runWord_next c.word s with ⟨i, hdec, hrun⟩ | ⟨r, -, hrun⟩ <;> rw [hrun] at h <;> cases h
  · rcases runCommand_cases i (performOf i) s with ⟨hok, ht⟩ | ⟨-, ht⟩
    · exact .completes i ⟨c, hdue, hdec, hok, ht⟩
    · exact .fails c _ hdue ht
  · exact .fails c .illegalCmd hdue rfl

/-- The inversion lemma of `step`. -/
theorem stepCase_of_step {s t : State} (h : step s = .next t) : StepCase s t := by
  rcases step_cases s with ⟨hb, he⟩ | ⟨e, es, htakes⟩ | ⟨c, hdue⟩
  · rw [step_of_idle hb he] at h
    cases h
    exact .idle rfl
  · exact stepCase_of_hostEvent htakes (step_of_takes htakes ▸ h)
  · exact stepCase_of_runWord hdue (step_of_due hdue ▸ h)

theorem Completed.events_eq {s t : State} {i : Instr} (h : Completed s t i) : t.events = s.events := by
  obtain ⟨c, -, -, -, rfl⟩ := h
  simp

/-! ### The invariant -/

theorem reset_spongeInv : State.reset.SpongeInv := by decide

/-- Settles O2. The reset state is its own reset. -/
theorem resetMeetsTheInvariant : Obligations.ResetMeetsTheInvariant :=
  ⟨reset_spongeInv, rfl, fun _ => rfl⟩

/-- Rule R37 while absorbing. -/
theorem spongeInv_of_absorbing {s : State} (hcfg : s.cfg = true) (hphase : s.phase = .absorbing)
    (hbuf : s.buf.length < s.rate) (hcursor : s.cursor = 0) : s.SpongeInv :=
  ⟨by simp [hcfg], fun _ => ⟨hbuf, hcursor⟩, by simp [hphase], rate_add_cap s.var⟩

/-- Rule R37 while squeezing. -/
theorem spongeInv_of_squeezing {s : State} (hcfg : s.cfg = true) (hphase : s.phase = .squeezing)
    (hbuf : s.buf = []) (hcursor : s.cursor ≤ s.rate) : s.SpongeInv :=
  ⟨by simp [hcfg], by simp [hphase], fun _ => ⟨hcfg, hbuf, hcursor⟩, rate_add_cap s.var⟩

@[simp] theorem finalize_rate (s : State) : (finalize s).rate = s.rate := by
  cases hp : s.phase with
  | absorbing => rw [finalize_absorbing hp]; rfl
  | squeezing => rw [finalize_squeezing hp]

/-- FINALIZE leaves BUF empty and CURSOR in the output block (rules R21 and R23). -/
theorem finalize_buf_cursor {s : State} (h : s.SpongeInv) :
    (finalize s).buf = [] ∧ (finalize s).cursor ≤ s.rate := by
  cases hp : s.phase with
  | absorbing => simp [finalize_absorbing hp]
  | squeezing =>
    obtain ⟨-, -, hsqueezing, -⟩ := h
    rw [finalize_squeezing hp]
    exact (hsqueezing hp).2

theorem performSqueeze_buf (n : Nat) (s : State) : (performSqueeze n s).buf = (finalize s).buf := by
  obtain ⟨A, r, c, -, h⟩ := squeezeBytes_frame n (finalize s)
  simp [performSqueeze, h]

theorem performSqueeze_cursor_le (n : Nat) {s : State} (h : (finalize s).cursor ≤ s.rate) :
    (performSqueeze n s).cursor ≤ s.rate := by
  have hle := squeezeBytes_cursor_le n (finalize s) (by rwa [finalize_rate])
  rwa [finalize_rate] at hle

theorem performOf_spongeInv {i : Instr} {s : State} (hok : check i s = .ok) (h : s.SpongeInv) :
    (performOf i s).SpongeInv := by
  cases i with
  | nop => exact h
  | init v => exact spongeInv_of_absorbing rfl rfl (rate_pos v) rfl
  | absorb n =>
    obtain ⟨-, hcfg, hphase⟩ := check_absorb_eq_ok hok
    obtain ⟨-, habsorbing, -, -⟩ := h
    obtain ⟨hphase', hcursor', hcfg', -, -, -⟩ := performAbsorb_unchanged n s
    exact spongeInv_of_absorbing (hcfg'.trans hcfg) (hphase'.trans hphase)
      ((absorbBytes_buf_length _ s).trans_eq (performAbsorb_rate n s).symm)
      (hcursor'.trans (habsorbing hphase).2)
  | squeeze n =>
    obtain ⟨-, hcfg⟩ := check_squeeze_eq_ok hok
    obtain ⟨hbuf, hcursor⟩ := finalize_buf_cursor h
    obtain ⟨hcfg', -, -⟩ := performSqueeze_unchanged n s
    exact spongeInv_of_squeezing (hcfg'.trans hcfg) (performSqueeze_phase n s)
      ((performSqueeze_buf n s).trans hbuf)
      ((performSqueeze_cursor_le n hcursor).trans_eq (performSqueeze_rate n s).symm)

/-- While the reset input is high nothing is in progress, for every element is at its reset value. -/
theorem resetLine_low_of_busy {s : State} {c : InFlight} (h : s.CoreInv) (hb : s.busy = some c) :
    s.resetLine = false := by
  by_contra hline
  have hreset : s = resetElements s := h.2 (by simpa using hline)
  rw [hreset] at hb
  cases hb

/-- Settles O3. Host accesses and failing commands write no element that rule R37 speaks of, and no command runs
while the reset input is high. -/
theorem stepKeepsTheInvariant : Obligations.StepKeepsTheInvariant := by
  intro s t ⟨hsponge, hcore⟩ h
  have hrnd : s.rnd = 0 := hcore.1
  cases stepCase_of_step h with
  | idle ht => exact ht ▸ ⟨hsponge, hcore⟩
  | resetStaysLow es hline ht =>
    subst ht
    exact ⟨hsponge, hrnd, by simp [hline]⟩
  | reset h =>
    obtain ⟨asserted, -, -, ht⟩ := h
    rw [ht]
    exact ⟨reset_spongeInv, rfl, fun _ => rfl⟩
  | access a r es htakes hline hreg ht =>
    subst ht
    exact ⟨by simpa [State.SpongeInv, State.rate] using hsponge, by simpa using hrnd, by simp [hline]⟩
  | fails c code hdue ht =>
    subst ht
    exact ⟨hsponge, hrnd, by simp [resetLine_low_of_busy hcore hdue.1]⟩
  | completes i h =>
    obtain ⟨c, hdue, -, hok, rfl⟩ := h
    exact ⟨performOf_spongeInv hok hsponge, performOf_rnd i hrnd,
      by simp [resetLine_low_of_busy hcore hdue.1]⟩

/-! ### Who writes what -/

/-- PHASE, CFG, VAR and DOUT are as they were, and STICKY is not cleared. -/
structure ControlKept (s t : State) : Prop where
  phase : t.phase = s.phase
  cfg : t.cfg = s.cfg
  var : t.var = s.var
  dout : t.dout = s.dout
  sticky : s.sticky = true → t.sticky = true

/-- The writers of PHASE, CFG, VAR, DOUT and (to 0) STICKY are INIT, SQUEEZE and reset. -/
theorem step_control_cases {s t : State} (h : step s = .next t) :
    ControlKept s t ∨ (∃ v, Completed s t (.init v)) ∨ (∃ n, Completed s t (.squeeze n)) ∨ ResetTaken s t := by
  cases stepCase_of_step h with
  | idle ht => exact .inl (ht ▸ ⟨rfl, rfl, rfl, rfl, id⟩)
  | resetStaysLow es hline ht => exact .inl (ht ▸ ⟨rfl, rfl, rfl, rfl, id⟩)
  | reset h => exact .inr (.inr (.inr h))
  | access a r es htakes hline hreg ht =>
    subst ht
    exact .inl (by constructor <;> simp)
  | fails c code hdue ht => exact .inl (ht ▸ ⟨rfl, rfl, rfl, rfl, fun _ => rfl⟩)
  | completes i h =>
    cases i with
    | init v => exact .inr (.inl ⟨v, h⟩)
    | squeeze n => exact .inr (.inr (.inl ⟨n, h⟩))
    | nop =>
      obtain ⟨c, -, -, -, rfl⟩ := h
      exact .inl ⟨rfl, rfl, rfl, rfl, id⟩
    | absorb n =>
      obtain ⟨c, -, -, -, rfl⟩ := h
      exact .inl (by constructor <;> simp [performOf])

/-- Settles O28: of the writers of the control elements, a SQUEEZE leaves CFG and VAR. -/
theorem onlyInitOrResetSelectsTheInstance : Obligations.OnlyInitOrResetSelectsTheInstance := by
  intro s t h hne
  rcases step_control_cases h with hkept | ⟨v, hc⟩ | ⟨n, hc⟩ | hr
  · simp [hkept.cfg, hkept.var] at hne
  · obtain ⟨c, ⟨hb, -⟩, hdec, -, rfl⟩ := hc
    exact .inl ⟨c, v, hb, hdec, rfl, rfl, rfl, rfl⟩
  · obtain ⟨c, -, -, -, rfl⟩ := hc
    simp [performOf] at hne
  · obtain ⟨asserted, htakes, hreset, ht⟩ := hr
    exact .inr ⟨asserted, htakes, hreset, by rw [ht]; rfl, by rw [ht]; rfl⟩

/-- Settles O29: INIT and reset leave PHASE absorbing, and a SQUEEZE that passes finds CFG = 1. -/
theorem phaseChangesOnlyAtItsWriters : Obligations.PhaseChangesOnlyAtItsWriters := by
  intro s t h
  rcases step_control_cases h with hkept | ⟨v, hc⟩ | ⟨n, hc⟩ | hr
  · rw [hkept.phase]
    exact ⟨fun ha hs => by simp [ha] at hs, fun hs ha => by simp [hs] at ha⟩
  · have hev := hc.events_eq
    obtain ⟨c, ⟨hb, -⟩, hdec, -, rfl⟩ := hc
    refine ⟨fun _ ht => ?_, fun _ _ => .inl ⟨rfl, hev, c, v, hb, hdec⟩⟩
    cases ht
  · have hev := hc.events_eq
    obtain ⟨c, ⟨hb, -⟩, hdec, hok, rfl⟩ := hc
    refine ⟨fun _ _ => ⟨(check_squeeze_eq_ok hok).2, rfl, hev, c, n, hb, hdec⟩, fun _ ht => ?_⟩
    simp [performOf] at ht
  · obtain ⟨asserted, htakes, hreset, ht⟩ := hr
    refine ⟨fun _ hp => ?_, fun _ _ => .inr ⟨asserted, htakes, hreset⟩⟩
    rw [ht] at hp
    cases hp

/-- Settles O30: of the writers of the control elements, a SQUEEZE that passes leaves STICKY. -/
theorem stickyStaysUntilInitOrReset : Obligations.StickyStaysUntilInitOrReset := by
  intro s t h hset hclear
  rcases step_control_cases h with hkept | ⟨v, hc⟩ | ⟨n, hc⟩ | hr
  · simp [hkept.sticky hset] at hclear
  · have hev := hc.events_eq
    obtain ⟨c, ⟨hb, -⟩, hdec, -, rfl⟩ := hc
    exact .inl ⟨rfl, hev, c, v, hb, hdec⟩
  · obtain ⟨c, -, -, -, rfl⟩ := hc
    simp [performOf, hset] at hclear
  · obtain ⟨asserted, htakes, hreset, -⟩ := hr
    exact .inr ⟨asserted, htakes, hreset⟩

/-- The stall of rule R125 holds a DIN access, so it comes with BUSY = 0. -/
theorem idle_of_takes_din_write {s : State} {a : Access} {w : Word} {es : List HostEvent}
    (h : s.Takes (.access a) es) (hreg : a.target = some .din) (hop : a.op = .write w) :
    s.busy = none ∧ s.events = .access ⟨0x04, 4, .write w⟩ :: es := by
  obtain ⟨hev, hidle⟩ := takes_access h
  obtain ⟨hoff, hbytes⟩ := off_bytes_of_target_din hreg
  have ha : a = ⟨0x04, 4, .write w⟩ := by
    obtain ⟨off, bytes, op⟩ := a
    cases hoff
    cases hbytes
    cases hop
    rfl
  refine ⟨?_, ha ▸ hev⟩
  rcases hidle with hb | ⟨c, -, -, hanswered⟩
  · exact hb
  · simp [answeredWhileBusy, hreg] at hanswered

/-- The writers of DIN are a host write of it and reset (rule R31). -/
theorem step_din_cases {s t : State} (h : step s = .next t) :
    t.din = s.din ∨
    (∃ w, s.busy = none ∧ s.events = .access ⟨0x04, 4, .write w⟩ :: t.events ∧ t.din = w) ∨
    ResetTaken s t := by
  cases stepCase_of_step h with
  | idle ht => exact .inl (ht ▸ rfl)
  | resetStaysLow es hline ht => exact .inl (ht ▸ rfl)
  | reset h => exact .inr (.inr h)
  | fails c code hdue ht => exact .inl (ht ▸ rfl)
  | completes i h =>
    obtain ⟨c, -, -, -, rfl⟩ := h
    exact .inl (by simp)
  | access a r es htakes hline hreg ht =>
    subst ht
    rcases serve_din_cases r a.op { s with events := es } with hdin | ⟨w, rfl, hop, hdin⟩
    · exact .inl hdin
    · obtain ⟨hb, hev⟩ := idle_of_takes_din_write htakes hreg hop
      exact .inr (.inl ⟨w, hb, by simpa using hev, hdin⟩)

/-- Settles O31, by the writers of DIN and those of the control elements. -/
theorem dataRegistersChangeOnlyAtTheirWriters : Obligations.DataRegistersChangeOnlyAtTheirWriters := by
  intro s t h
  constructor
  · intro hne
    rcases step_din_cases h with hkept | hwrite | hr
    · exact absurd hkept hne
    · exact .inl hwrite
    · obtain ⟨asserted, htakes, -, ht⟩ := hr
      exact .inr ⟨asserted, htakes, by rw [ht]; rfl⟩
  · intro hne
    rcases step_control_cases h with hkept | ⟨v, hc⟩ | ⟨n, hc⟩ | hr
    · exact absurd hkept.dout hne
    · have hev := hc.events_eq
      obtain ⟨c, ⟨hb, -⟩, hdec, -, rfl⟩ := hc
      exact .inl ⟨c, _, hb, hdec, rfl, hev, rfl, .inr ⟨v, rfl, rfl⟩⟩
    · have hev := hc.events_eq
      obtain ⟨c, ⟨hb, -⟩, hdec, -, rfl⟩ := hc
      exact .inl ⟨c, _, hb, hdec, rfl, hev, rfl, .inl ⟨n, rfl⟩⟩
    · obtain ⟨asserted, htakes, -, ht⟩ := hr
      exact .inr ⟨asserted, htakes, by rw [ht]; rfl⟩

/-! ### STATUS reads and WAIT -/

/-- With BUSY = 0 a STATUS read returns the STATUS word (rule R46). -/
theorem step_rdStatus_idle {s : State} {es : List HostEvent} (hb : s.busy = none) (hline : s.resetLine = false)
    (hev : s.events = .access rdStatus :: es) :
    step s = .next (reply (statusWord s) { s with events := es }) := by
  have htarget : rdStatus.target = some .status := rfl
  have hop : rdStatus.op = .read := rfl
  rw [step_of_takes (.inl ⟨hb, hev⟩)]
  simp [hostEvent, hline, htarget, hop, serve, hb, statusWord]

/-- With BUSY = 1 and a busy access left, a STATUS read is answered before the completion (rule R127). -/
theorem step_rdStatus_busy {s : State} {c : InFlight} {es : List HostEvent} (hb : s.busy = some c)
    (hc : 0 < c.busyReads) (hline : s.resetLine = false) (hev : s.events = .access rdStatus :: es) :
    step s = .next (replyBusyStatus c { s with events := es }) := by
  have htarget : rdStatus.target = some .status := rfl
  have hop : rdStatus.op = .read := rfl
  have htaken : takenWhileBusy s.events = some (.access rdStatus, es) := by rw [hev]; rfl
  rw [step_of_takes (.inr ⟨c, hb, hc, htaken⟩)]
  simp [hostEvent, hline, htarget, hop, serve, hb]

/-- A completing command always gives a next state, with BUSY = 0 and the host's side as it was. -/
theorem step_next_of_due {s : State} {c : InFlight} (h : s.Due c) :
    ∃ u, step s = .next u ∧ u.busy = none ∧ u.resetLine = s.resetLine ∧ u.events = s.events ∧
      u.replies = s.replies := by
  rw [step_of_due h]
  rcases runWord_next c.word s with ⟨i, -, hrun⟩ | ⟨r, -, hrun⟩
  · obtain ⟨-, hline, hevents, hreplies, -, hbusy⟩ := commandFrame i s _ (exec_eq_runCommand i s)
    exact ⟨_, hrun, hbusy, hline, hevents, hreplies⟩
  · exact ⟨_, hrun, rfl, rfl, rfl, rfl⟩

theorem core_run_succ {s t : State} (h : step s = .next t) (k : Nat) : core.run (k + 1) s = core.run k t := by
  have hcore : core.step s = .next t := h
  simp [Host.Core.run, hcore]

/-- How many accesses may still see the command in progress (rule R127's free number); none with BUSY = 0. -/
def readsLeft (s : State) : Nat := (s.busy.map InFlight.busyReads).getD 0

theorem wait_eq_waitLoop (s : State) : wait s = waitLoop (readsLeft s + 1) s := by
  cases hb : s.busy <;> simp [wait, readsLeft, hb]

theorem answer_of_answered {s t : State} {a : Access} (h : step (s.withAccesses [a]) = .next t)
    (hev : t.events = []) : answer a s = .next t := by
  simp [answer, h, hev]

theorem answer_of_pending {s u : State} {a : Access} (h : step (s.withAccesses [a]) = .next u)
    (hev : u.events ≠ []) : answer a s = step u := by
  simp [answer, h, hev]

/-- What WAIT comes to when it ends in `t` with the word `last`, after the words `before`, newest first. -/
structure WaitEnds (s t : State) (last : Word) (before : List Word) : Prop where
  busy : t.busy = none
  events : t.events = []
  replies : t.replies = last :: before ++ s.replies
  last_bit : last.getLsbD 0 = false
  before_bits : ∀ w ∈ before, w.getLsbD 0 = true
  length : before.length = readsLeft s
  run : ∃ k, core.run k (s.withAccesses (waitReads (before.length + 1))) = .next t

theorem WaitEnds.lastReadIdle_eq {s t : State} {last : Word} {before : List Word} (h : WaitEnds s t last before) :
    lastReadIdle t = true := by
  simpa [lastReadIdle, h.replies] using h.last_bit

/-- The STATUS read that ends WAIT, answered in the state `u` with BUSY = 0. -/
theorem waitEnds_of_idle_read {s u : State} {k : Nat} (hleft : readsLeft s = 0) (hbusy : u.busy = none)
    (hreplies : u.replies = s.replies)
    (hrun : core.run k (s.withAccesses [rdStatus]) = .next (reply (statusWord u) { u with events := [] })) :
    WaitEnds s (reply (statusWord u) { u with events := [] }) (statusWord u) [] where
  busy := hbusy
  events := rfl
  replies := by simp [hreplies]
  last_bit := statusWord_bit0 u
  before_bits := by simp
  length := hleft.symm
  run := ⟨k, hrun⟩

/-- WAIT's last STATUS read: BUSY = 0, or the command in progress completes before the read is answered. -/
theorem waitEnds_of_readsLeft_zero {s : State} (hleft : readsLeft s = 0) (hline : s.resetLine = false) :
    ∃ t last, answer rdStatus s = .next t ∧ WaitEnds s t last [] := by
  cases hb : s.busy with
  | none =>
    have hread := step_rdStatus_idle (s := s.withAccesses [rdStatus]) (es := []) hb hline rfl
    exact ⟨_, _, answer_of_answered hread rfl, waitEnds_of_idle_read hleft hb rfl (core_run_succ hread 0)⟩
  | some c =>
    have hdue : (s.withAccesses [rdStatus]).Due c := ⟨hb, .inl (by simpa [readsLeft, hb] using hleft)⟩
    obtain ⟨u, hcomplete, hbusy, hlow, hevents, hreplies⟩ := step_next_of_due hdue
    have hpending : u.events ≠ [] := by simp [hevents, State.withAccesses]
    have hread := step_rdStatus_idle (es := []) hbusy (hlow.trans hline) hevents
    exact ⟨_, _, (answer_of_pending hcomplete hpending).trans hread,
      waitEnds_of_idle_read hleft hbusy hreplies ((core_run_succ hcomplete 1).trans (core_run_succ hread 0))⟩

/-- A STATUS read that sees BUSY = 1 goes before the rest of the WAIT. -/
theorem WaitEnds.cons_busy {s t : State} {c : InFlight} {last : Word} {before : List Word}
    (hb : s.busy = some c) (hc : 0 < c.busyReads) (hline : s.resetLine = false)
    (h : WaitEnds (replyBusyStatus c { s with events := [] }) t last before) :
    WaitEnds s t last (before ++ [busyStatusWord s.draws]) := by
  have hstep := step_rdStatus_busy (s := s.withAccesses (waitReads (before.length + 1 + 1)))
    (es := (waitReads (before.length + 1)).map .access) hb hc hline rfl
  have hlength : before.length = c.busyReads - 1 := h.length
  obtain ⟨k, hrun⟩ := h.run
  exact
    { busy := h.busy, events := h.events, last_bit := h.last_bit
      replies := by rw [h.replies]; simp [replyBusyStatus]
      before_bits := by
        intro w hw
        rcases List.mem_append.mp hw with hw | hw
        · exact h.before_bits w hw
        · rw [List.mem_singleton.mp hw, busyStatusWord_bit0]
      length := by simp [readsLeft, hb, hlength]; omega
      run := by
        rw [List.length_append, List.length_singleton]
        exact ⟨k + 1, (core_run_succ hstep k).trans hrun⟩ }

/-- WAIT ends, by induction on the number of accesses that may still see the command in progress. -/
theorem waitLoop_ends (k : Nat) (s : State) (hk : readsLeft s = k) (hline : s.resetLine = false) :
    ∃ t last before, waitLoop (k + 1) s = .next t ∧ WaitEnds s t last before := by
  induction k generalizing s with
  | zero =>
    obtain ⟨t, last, hanswer, hends⟩ := waitEnds_of_readsLeft_zero hk hline
    exact ⟨t, last, [], by simp [waitLoop, hanswer, hends.lastReadIdle_eq], hends⟩
  | succ k ih =>
    obtain ⟨c, hb, hc⟩ : ∃ c, s.busy = some c ∧ c.busyReads = k + 1 := by
      cases hb : s.busy with
      | none => simp [readsLeft, hb] at hk
      | some c => exact ⟨c, rfl, by simpa [readsLeft, hb] using hk⟩
    have hpos : 0 < c.busyReads := hc ▸ k.succ_pos
    have hstep := step_rdStatus_busy (s := s.withAccesses [rdStatus]) (es := []) hb hpos hline rfl
    have hanswer : answer rdStatus s = .next (replyBusyStatus c { s with events := [] }) :=
      answer_of_answered hstep rfl
    have hbusy : lastReadIdle (replyBusyStatus c { s with events := [] }) = false := by
      simp [lastReadIdle, replyBusyStatus, busyStatusWord_bit0]
    have hleft : readsLeft (replyBusyStatus c { s with events := [] }) = k := by
      simp [readsLeft, replyBusyStatus, hc]
    obtain ⟨t, last, before, hloop, hends⟩ := ih _ hleft hline
    exact ⟨t, last, before ++ [busyStatusWord s.draws], by rw [waitLoop, hanswer]; simpa [hbusy] using hloop,
      hends.cons_busy hb hpos hline⟩

/-- Settles O41: the second clause is `waitLoop_ends` at the number of busy accesses that `wait` allows for. -/
theorem statusReadWhileBusy : Obligations.StatusReadWhileBusy := by
  constructor
  · intro s c es hb hc hline hev
    exact ⟨busyStatusWord s.draws, s.draws + 1, busyStatusWord_bit0 _, step_rdStatus_busy hb hc hline hev⟩
  · intro s hline
    obtain ⟨t, last, before, hloop, h⟩ := waitLoop_ends _ s rfl hline
    obtain ⟨k, hrun⟩ := h.run
    refine ⟨t, last, before, k, (wait_eq_waitLoop s).trans hloop, h.busy, h.events, h.replies, h.last_bit,
      h.before_bits, fun hb => ?_, fun c hb => ?_, hrun⟩
    · exact List.length_eq_zero_iff.mp (by simp [h.length, readsLeft, hb])
    · simp [h.length, readsLeft, hb]

/-! ### Reset values, and the byte view of S -/

/-- Settles O1. The STATUS word of the reset state is 0 by evaluation. -/
theorem resetValues : Obligations.ResetValues :=
  ⟨rfl, rfl, rfl, rfl, rfl, rfl, rfl, rfl, rfl, rfl, rfl, rfl, step_rdStatus_idle rfl rfl rfl⟩

/-- Settles O50: `laneAt` and `stateByte` number the lanes alike. -/
theorem stateBytesAreLittleEndian : Obligations.StateBytesAreLittleEndian := by
  intro A x y i j hj hlane
  have hlt : x.val + 5 * y.val < 25 := by omega
  simp [stateByte, laneAt, hlane, hlt, hj]

/-- A SQUEEZE that passes its checks takes its effect (rules R94 and R98). -/
theorem exec_squeeze {n : Nat} {s : State} (hn : n ≤ 4) (hcfg : s.cfg = true) :
    exec (.squeeze n) s = .next (finish (setErr .ok (performSqueeze n s))) := by
  have hok : check (.squeeze n) s = .ok := by simp [check_squeeze, hcfg, Nat.not_lt.mpr hn]
  rw [exec_eq_runCommand, runCommand_of_ok hok]
  rfl

/-- A SQUEEZE served by the unread bytes of the output block (rule R86). -/
theorem performSqueeze_within {n : Nat} {s : State} (hphase : s.phase = .squeezing)
    (hfit : s.cursor + n ≤ s.rate) :
    performSqueeze n s = { s with
      cursor := s.cursor + n
      dout := packWord ((List.range n).map fun k => stateByte s.lanes (s.cursor + k)) } := by
  simp [performSqueeze, finalize_squeezing hphase, squeezeBytes_within n s hfit]

/-- Settles O59. Such a SQUEEZE reads bytes of S below the rate alone, and STATUS holds no byte of S. -/
theorem capacityIsNotDelivered : Obligations.CapacityIsNotDelivered := by
  intro s B n hn hcfg hphase hfit hagree
  refine ⟨_, _, exec_squeeze hn hcfg, exec_squeeze hn hcfg, ?_⟩
  rw [performSqueeze_within hphase hfit, performSqueeze_within (s := { s with lanes := B }) hphase hfit]
  have hbytes : ∀ k ∈ List.range n, stateByte B (s.cursor + k) = stateByte s.lanes (s.cursor + k) := by
    intro k hk
    have hlt := List.mem_range.mp hk
    exact hagree _ (by omega)
  exact ⟨congrArg packWord (List.map_congr_left hbytes), by simp [statusWord]⟩

end Sys2Proof.Machine
end

section
/-! Proofs for the family `20_memory.md`: which register an access reaches and what the step that takes it does
(rules R39 to R46 and R51), the STATUS word field by field (rule R34), the steps that end a command (rules R43, R52
and R126), what a legal host can meet (rules R115 and R121), and the bytes of DOUT (rule R48). -/

namespace Sys2Proof.Machine

/-! ### Which register an access reaches -/

/-- The offset of each register (rule R39). -/
def Reg.offset : Reg → Fin 32
  | .cmd => 0x00
  | .din => 0x04
  | .dout => 0x08
  | .status => 0x0C

@[simp] theorem target_at_offset (r : Reg) (op : AccessOp) : (⟨r.offset, 4, op⟩ : Access).target = some r := by
  cases r <;> simp [Access.target, regAt, Reg.offset]

theorem eq_offset_of_regAt {off : Fin 32} {r : Reg} (h : regAt off.val = some r) : off = r.offset := by
  unfold regAt at h
  split_ifs at h with hcmd hdin hdout hstatus <;> cases h
  · exact Fin.ext hcmd
  · exact Fin.ext hdin
  · exact Fin.ext hdout
  · exact Fin.ext hstatus

/-- An access that reaches a register is at its offset. -/
theorem off_of_target {a : Access} {r : Reg} (h : a.target = some r) : a.off = r.offset := by
  unfold Access.target at h
  split at h
  · cases h
  · exact eq_offset_of_regAt h

theorem target_of_malformed {a : Access} (h : a.bytes ≠ 4 ∨ ¬ 4 ∣ a.off.val) : a.target = none := by
  rw [Nat.dvd_iff_mod_eq_zero] at h
  exact if_pos h

theorem target_of_reserved {a : Access} (h : a.off = 0x10 ∨ a.off = 0x14 ∨ a.off = 0x18 ∨ a.off = 0x1C) :
    a.target = none := by
  cases ht : a.target with
  | none => rfl
  | some r =>
    rw [off_of_target ht] at h
    revert h
    cases r <;> decide

/-! ### What the step that takes an access does -/

/-- An access is served exactly when the reset input is low and it reaches a register. -/
theorem hostEvent_access_eq_next_iff {a : Access} {s t : State} :
    hostEvent (.access a) s = .next t ↔
      s.resetLine = false ∧ ∃ r, a.target = some r ∧ serve r a.op s = t := by
  cases hline : s.resetLine with
  | true => simp [hostEvent, hline]
  | false => cases ht : a.target <;> simp [hostEvent, hline, ht]

/-- An access that reaches no register gets a bus error (rule R42). -/
theorem step_of_takes_no_target {s : State} {a : Access} {es : List HostEvent} (h : s.Takes (.access a) es)
    (hline : s.resetLine = false) (ht : a.target = none) : step s = .fault .busError := by
  rw [step_of_takes h]
  simp [hostEvent, hline, ht]

/-- Settles O37. -/
theorem malformedAccessGetsABusError : Obligations.MalformedAccessGetsABusError :=
  fun _ _ _ htakes hline h => step_of_takes_no_target htakes hline (target_of_malformed h)

/-- Settles O38. -/
theorem reservedOffsetGetsABusError : Obligations.ReservedOffsetGetsABusError :=
  fun _ _ _ htakes hline h => step_of_takes_no_target htakes hline (target_of_reserved h)

/-- With BUSY = 0 and the reset input low, the host's next access to a register is served. -/
theorem step_register {s : State} {op : AccessOp} {es : List HostEvent} (r : Reg) (hb : s.busy = none)
    (hline : s.resetLine = false) (hev : s.events = .access ⟨r.offset, 4, op⟩ :: es) :
    step s = .next (serve r op { s with events := es }) := by
  rw [step_of_takes (.inl ⟨hb, hev⟩)]
  exact hostEvent_access_eq_next_iff.mpr ⟨hline, r, target_at_offset r op, rfl⟩

/-- Settles O33. The number of accesses that may see BUSY = 1 is the one `accept` draws. -/
theorem cmdAccesses : Obligations.CmdAccesses :=
  fun _ _ hb hline =>
    ⟨fun _ hev => ⟨_, _, step_register .cmd hb hline hev⟩, fun hev => step_register .cmd hb hline hev⟩

/-- Settles O34. -/
theorem dinAccesses : Obligations.DinAccesses :=
  fun _ _ hb hline =>
    ⟨fun _ hev => step_register .din hb hline hev, fun hev => step_register .din hb hline hev⟩

/-- Settles O35. -/
theorem doutAccesses : Obligations.DoutAccesses :=
  fun _ _ hb hline =>
    ⟨fun hev => step_register .dout hb hline hev, fun _ hev => step_register .dout hb hline hev⟩

/-- With BUSY = 0 a read returns one word and does nothing else (rules R43 to R46). -/
theorem serve_read_of_idle (r : Reg) {s : State} (hb : s.busy = none) : ∃ w, serve r .read s = reply w s := by
  cases r with
  | cmd => exact ⟨_, rfl⟩
  | din => exact ⟨_, rfl⟩
  | dout => exact ⟨_, rfl⟩
  | status => exact ⟨statusWord s, by simp [serve, hb]⟩

/-- A write to a register other than CMD reaches DIN alone, and that where it is to DIN (rules R44 to R46). -/
theorem serve_write_of_ne_cmd {r : Reg} (h : r ≠ .cmd) (w : Word) (s : State) :
    serve r (.write w) s = { s with din := if r.offset = 0x04 then w else s.din } := by
  cases r with
  | cmd => exact absurd rfl h
  | din => rfl
  | dout => rfl
  | status => rfl

/-- Settles O32: the step served the access, since it gave a next state. -/
theorem onlyCmdWritesHaveSideEffects : Obligations.OnlyCmdWritesHaveSideEffects := by
  intro s t a es hev hb h
  rw [step_of_takes (.inl ⟨hb, hev⟩)] at h
  obtain ⟨-, r, ht, rfl⟩ := hostEvent_access_eq_next_iff.mp h
  constructor
  · intro hop
    obtain ⟨w, hread⟩ := serve_read_of_idle r (s := { s with events := es }) hb
    rw [hop, hread]
    exact ⟨by simp [State.SameElements], hb, w, rfl⟩
  · intro w hop hoff
    have hne : r ≠ .cmd := by
      rintro rfl
      exact hoff (off_of_target ht)
    rw [hop, off_of_target ht, serve_write_of_ne_cmd hne]
    exact ⟨by simp [State.SameElements], hb, rfl⟩

/-! ### The STATUS word -/

theorem testBit_of_lt_two_pow {x n j : Nat} (hx : x < 2 ^ n) (hj : n ≤ j) : x.testBit j = false :=
  Nat.testBit_lt_two_pow (hx.trans_le (Nat.pow_le_pow_right two_pos hj))

theorem bitWord_shiftLeft_getLsbD (b : Bool) (k : Nat) {i : Nat} (hi : i < 32) :
    (bitWord b <<< k).getLsbD i = (decide (i = k) && b) := by
  cases b with
  | false => simp [bitWord]
  | true =>
    by_cases hk : i < k
    · simp [bitWord, hi, hk, hk.ne]
    · have hpos : i - k = 0 ↔ i = k := by omega
      simp [bitWord, hi, hk, hpos]

theorem phaseCode_eq_bitWord (p : Phase) : phaseCode p = bitWord (decide (p = .squeezing)) := by
  cases p <;> rfl

theorem variantCode_eq_bitWord (v : Variant) : variantCode v = bitWord (decide (v = .shake256)) := by
  cases v <;> rfl

/-- ERR takes two bits (rule R28). -/
theorem errWord_toNat_lt (c : ErrCode) : (errWord c).toNat < 2 ^ 2 := by
  cases c <;> decide

theorem errWord_getLsbD_of_ge (c : ErrCode) {i : Nat} (h : 2 ≤ i) : (errWord c).getLsbD i = false :=
  testBit_of_lt_two_pow (errWord_toNat_lt c) h

/-- STATUS bit by bit, before the bounds on CURSOR and BUFLEN keep their fields apart (rule R34). -/
theorem statusWord_getLsbD (s : State) {i : Nat} (hi : i < 32) :
    (statusWord s).getLsbD i =
      (!decide (i < 16) && s.cursor.testBit (i - 16) || !decide (i < 8) && s.buf.length.testBit (i - 8) ||
        decide (i = 6) && s.sticky || !decide (i < 4) && (errWord s.err).getLsbD (i - 4) ||
        decide (i = 3) && decide (s.phase = .squeezing) || decide (i = 2) && decide (s.var = .shake256) ||
        decide (i = 1) && s.cfg) := by
  have hlow (k : Nat) : i - k < 32 := by omega
  simp only [statusWord, phaseCode_eq_bitWord, variantCode_eq_bitWord, BitVec.getLsbD_or,
    bitWord_shiftLeft_getLsbD _ _ hi, BitVec.getLsbD_shiftLeft, BitVec.getLsbD_ofNat, hi, hlow, decide_true,
    Bool.true_and]

theorem statusWord_low_bits (s : State) :
    (statusWord s).getLsbD 1 = s.cfg ∧ (statusWord s).getLsbD 2 = decide (s.var = .shake256) ∧
    (statusWord s).getLsbD 3 = decide (s.phase = .squeezing) ∧ (statusWord s).getLsbD 6 = s.sticky ∧
    (statusWord s).getLsbD 7 = false := by
  simp [statusWord_getLsbD, errWord_getLsbD_of_ge, -BitVec.getLsbD_eq_getElem]

/-- A field of a word is the number below its range that has the same bits. -/
theorem extractLsb'_toNat_of_testBit {w : Word} {k n x : Nat} (hx : x < 2 ^ n)
    (h : ∀ j < n, w.getLsbD (k + j) = x.testBit j) : (w.extractLsb' k n).toNat = x := by
  apply Nat.eq_of_testBit_eq
  intro j
  rw [BitVec.testBit_toNat, BitVec.getLsbD_extractLsb']
  by_cases hj : j < n
  · simp [hj, h j hj]
  · simp [hj, testBit_of_lt_two_pow hx (not_lt.mp hj)]

theorem statusWord_err (s : State) : ((statusWord s).extractLsb' 4 2).toNat = (errWord s.err).toNat := by
  refine extractLsb'_toNat_of_testBit (errWord_toNat_lt s.err) fun j hj => ?_
  have h8 : 4 + j < 8 := by omega
  have h16 : 4 + j < 16 := by omega
  have hne (k : Nat) (hk : k = 1 ∨ k = 2 ∨ k = 3 ∨ k = 6) : 4 + j ≠ k := by omega
  simp [statusWord_getLsbD s (i := 4 + j) (by omega), h8, h16, hne, BitVec.testBit_toNat]

/-- Above bit 7 STATUS holds BUFLEN, from bit 8, and CURSOR, from bit 16. -/
theorem statusWord_getLsbD_high (s : State) {i : Nat} (h8 : 8 ≤ i) (h32 : i < 32) :
    (statusWord s).getLsbD i =
      (!decide (i < 16) && s.cursor.testBit (i - 16) || s.buf.length.testBit (i - 8)) := by
  have hne (k : Nat) (hk : k < 8) : i ≠ k := by omega
  have herr : (errWord s.err).getLsbD (i - 4) = false := errWord_getLsbD_of_ge _ (by omega)
  simp [statusWord_getLsbD s h32, hne, herr, Nat.not_lt.mpr h8]

theorem statusWord_buflen {s : State} (h : s.buf.length < 2 ^ 8) :
    ((statusWord s).extractLsb' 8 8).toNat = s.buf.length := by
  refine extractLsb'_toNat_of_testBit h fun j hj => ?_
  have h16 : 8 + j < 16 := by omega
  simp [statusWord_getLsbD_high s (i := 8 + j) (by omega) (by omega), h16]

/-- BUFLEN, below 2^8, has no bit where CURSOR's are. -/
theorem statusWord_getLsbD_top {s : State} (hbuf : s.buf.length < 2 ^ 8) {j : Nat} (hj : j < 16) :
    (statusWord s).getLsbD (16 + j) = s.cursor.testBit j := by
  rw [statusWord_getLsbD_high s (by omega) (by omega), testBit_of_lt_two_pow hbuf (j := 16 + j - 8) (by omega)]
  simp

theorem statusWord_cursor {s : State} (hbuf : s.buf.length < 2 ^ 8) (h : s.cursor < 2 ^ 8) :
    ((statusWord s).extractLsb' 16 8).toNat = s.cursor :=
  extractLsb'_toNat_of_testBit h fun _ hj => statusWord_getLsbD_top hbuf (by omega)

/-- Bits 31:24 of STATUS are reserved (rule R34). -/
theorem statusWord_reserved {s : State} (hbuf : s.buf.length < 2 ^ 8) (h : s.cursor < 2 ^ 8) :
    (statusWord s).extractLsb' 24 8 = 0 := by
  refine BitVec.eq_of_toNat_eq (extractLsb'_toNat_of_testBit (by decide) fun j hj => ?_)
  rw [show 24 + j = 16 + (8 + j) by omega, statusWord_getLsbD_top hbuf (by omega),
    testBit_of_lt_two_pow h (Nat.le_add_right 8 j)]
  simp

/-- Settles O36. The bounds on BUFLEN and CURSOR are those of their eight-bit fields, with room to spare. -/
theorem statusAccesses : Obligations.StatusAccesses := by
  intro s es hb hline
  refine ⟨fun hev hbuf hcursor => ?_, fun w hev => step_register .status hb hline hev⟩
  have hbuf' : s.buf.length < 2 ^ 8 := by omega
  have hcursor' : s.cursor < 2 ^ 8 := by omega
  obtain ⟨hcfg, hvar, hphase, hsticky, hreserved⟩ := statusWord_low_bits s
  refine ⟨statusWord s, step_rdStatus_idle hb hline hev, statusWord_bit0 s, hcfg, hvar, hphase, ?_, hsticky,
    hreserved, statusWord_buflen hbuf', statusWord_cursor hbuf' hcursor', statusWord_reserved hbuf' hcursor'⟩
  rw [statusWord_err]
  cases s.err <;> rfl

/-! ### The bytes of DOUT -/

/-- Byte `k` of a packed word (rule R48), also where the bytes are more than four: the shifts drop those past the
fourth. -/
theorem packWord_byte (o : List Byte) {k : Nat} (hk : k < 4) :
    (packWord o).extractLsb' (8 * k) 8 = (o[k]?).getD 0 := by
  induction o generalizing k with
  | nil => simp [packWord]
  | cons b bs ih =>
    ext j hj
    cases k with
    | zero =>
      have h32 : j < 32 := by omega
      simp [packWord, hj, h32]
    | succ k =>
      have h32 : 8 * (k + 1) + j < 32 := by omega
      have h32' : 8 * k + j < 32 := by omega
      have hpast : ¬ 8 * (k + 1) + j < 8 := by omega
      have hback : 8 * (k + 1) + j - 8 = 8 * k + j := by omega
      rw [List.getElem?_cons_succ, ← ih (by omega)]
      simp [packWord, h32, h32', hpast, not_lt.mp hpast, hback]

/-- Settles O53. -/
theorem doutBytesInStreamOrder : Obligations.DoutBytesInStreamOrder := fun o _ _ hk => packWord_byte o hk

/-! ### The steps that end a command -/

theorem runWord_of_decode {w : Word} {i : Instr} (h : decode w = .ok i) (s : State) : runWord w s = exec i s := by
  simp [runWord, h]

/-- Settles O11. -/
theorem stepRunsTheDecodedCommand : Obligations.StepRunsTheDecodedCommand :=
  fun s _ _ hdue hdec => (step_of_due hdue).trans (runWord_of_decode hdec s)

/-- A completing step ends with BUSY = 0, the inputs as they were, and the whole of the decoded command, or of rule
R62's rejection, done. -/
theorem completion_of_due {s t : State} {c : InFlight} (hdue : s.Due c) (h : step s = .next t) :
    t.busy = none ∧ t.events = s.events ∧
      ((∃ i, decode c.word = .ok i ∧ exec i s = .next t) ∨
        ∃ r, decode c.word = .error r ∧ t = { s with err := .illegalCmd, sticky := true, busy := none }) := by
  obtain ⟨u, hu, hbusy, -, hevents, -⟩ := step_next_of_due hdue
  cases hu.symm.trans h
  refine ⟨hbusy, hevents, ?_⟩
  rw [step_of_due hdue] at h
  rcases runWord_next c.word s with ⟨i, hdec, -⟩ | ⟨r, hdec, hrun⟩
  · exact .inl ⟨i, hdec, runWord_of_decode hdec s ▸ h⟩
  · rw [hrun] at h
    cases h
    exact .inr ⟨r, hdec, rfl⟩

/-- Of the accesses that reach a register, only a STATUS read is answered while BUSY = 1 (rule R125). -/
theorem status_read_of_answered {a : Access} {r : Reg} (h : answeredWhileBusy (.access a) = true)
    (ht : a.target = some r) : r = .status ∧ a.op = .read := by
  obtain ⟨off, bytes, op⟩ := a
  cases r <;> cases op <;> simp [answeredWhileBusy, ht] at h ⊢

/-- An access taken while BUSY = 1 leaves BUSY at 1 and every element (rule R127). -/
theorem serve_sameElements_of_busy {s : State} {a : Access} {r : Reg} {es : List HostEvent} {c : InFlight}
    (htakes : s.Takes (.access a) es) (hb : s.busy = some c) (ht : a.target = some r) :
    (serve r a.op { s with events := es }).busy ≠ none ∧ (serve r a.op { s with events := es }).SameElements s := by
  obtain ⟨-, hidle | ⟨_, -, -, hanswered⟩⟩ := takes_access htakes
  · simp [hb] at hidle
  · obtain ⟨rfl, hop⟩ := status_read_of_answered hanswered ht
    simp [serve, hop, hb, replyBusyStatus, State.SameElements]

/-- Settles O42, by what the step takes: a reset input, a STATUS read, or nothing, in which case the command
completes. -/
theorem commandsAreAtomic : Obligations.CommandsAreAtomic := by
  intro s t c hb h
  rcases step_cases s with ⟨hidle, -⟩ | ⟨e, es, htakes⟩ | ⟨d, hdue⟩
  · simp [hb] at hidle
  · rw [step_of_takes htakes] at h
    cases e with
    | resetInput asserted =>
      cases h
      by_cases hreset : asserted = true ∨ s.resetLine = true
      · rw [driveReset_of_resets (s := { s with events := es }) hreset]
        exact ⟨fun hbusy => absurd rfl hbusy,
          fun _ => .inr ⟨asserted, htakes, by simp [State.SameElements, resetElements]⟩⟩
      · rw [not_or, Bool.not_eq_true, Bool.not_eq_true] at hreset
        obtain ⟨rfl, hline⟩ := hreset
        rw [driveReset_of_low (s := { s with events := es }) hline]
        simp [hb, State.SameElements]
    | access a =>
      obtain ⟨-, r, hreg, rfl⟩ := hostEvent_access_eq_next_iff.mp h
      obtain ⟨hbusy, hsame⟩ := serve_sameElements_of_busy htakes hb hreg
      exact ⟨fun _ => hsame, fun hidle => absurd hidle hbusy⟩
  · cases hdue.1.symm.trans hb
    obtain ⟨hidle, hevents, hcommand⟩ := completion_of_due hdue h
    exact ⟨fun hbusy => absurd hidle hbusy, fun _ => .inl ⟨hevents, hcommand⟩⟩

/-! ### What a legal host can meet -/

@[simp] theorem driveReset_resetLine (asserted : Bool) (s : State) :
    (driveReset asserted s).resetLine = asserted := by
  cases asserted <;> cases hline : s.resetLine <;> simp [driveReset, hline]

@[simp] theorem driveReset_events (asserted : Bool) (s : State) : (driveReset asserted s).events = s.events := by
  unfold driveReset
  split <;> rfl

/-- The input that a step takes is legal where it is taken, and so are the inputs left behind it. -/
theorem hostLegal_of_takes {s : State} {e : HostEvent} {es : List HostEvent} (h : s.Takes e es)
    (hlegal : s.HostLegal) : hostLegal s.resetLine (e :: es) = true := by
  rcases h with ⟨-, hev⟩ | ⟨c, -, -, htaken⟩
  · exact hev ▸ hlegal
  · rcases takenWhileBusy_cases htaken with ⟨hev, -⟩ | ⟨a, rest, hev, -, rfl, hbehind⟩
    · exact hev ▸ hlegal
    · rw [State.HostLegal, hev, hostLegal, Bool.and_eq_true] at hlegal
      exact hostLegal_resetBehind hbehind hlegal.2

/-- A legal input is answered with a next state, and the inputs left are legal there. -/
theorem hostEvent_next_of_hostLegal {s : State} {e : HostEvent} (h : hostLegal s.resetLine (e :: s.events) = true) :
    ∃ t, hostEvent e s = .next t ∧ t.HostLegal := by
  cases e with
  | resetInput asserted =>
    refine ⟨driveReset asserted s, rfl, ?_⟩
    rw [State.HostLegal, driveReset_resetLine, driveReset_events]
    exact h
  | access a =>
    simp only [hostLegal, Bool.and_eq_true, Bool.not_eq_true', Option.isSome_iff_exists] at h
    obtain ⟨⟨hline, r, hreg⟩, hlegal⟩ := h
    refine ⟨_, hostEvent_access_eq_next_iff.mpr ⟨hline, r, hreg, rfl⟩, ?_⟩
    simpa [State.HostLegal] using hlegal

/-- Settles O44: idling and completing leave the inputs and the reset input as they were. -/
theorem legalHostNeverStopsTheBlock : Obligations.LegalHostNeverStopsTheBlock := by
  intro s hlegal
  rcases step_cases s with ⟨hb, he⟩ | ⟨e, es, htakes⟩ | ⟨c, hdue⟩
  · exact ⟨s, step_of_idle hb he, hlegal⟩
  · have htaken : hostLegal s.resetLine (e :: es) = true := hostLegal_of_takes htakes hlegal
    rw [step_of_takes htakes]
    exact hostEvent_next_of_hostLegal (s := { s with events := es }) htaken
  · obtain ⟨t, ht, -, hline, hevents, -⟩ := step_next_of_due hdue
    exact ⟨t, ht, by rw [State.HostLegal, hline, hevents]; exact hlegal⟩

end Sys2Proof.Machine
end

section
/-! Proofs for the family `30_encoding.md`: the fields of a command word, decoding and encoding (rules R58 to R68). -/

namespace Sys2Proof

/-! ### The fields of a command word -/

theorem append_fields (w : Word) : rsvField w ++ argField w ++ opcField w = w := by
  ext j hj
  simp [rsvField, argField, opcField]
  grind

/-- The three fields are the whole word (rule R58). -/
theorem word_eq_iff_fields {w w' : Word} :
    w = w' ↔ rsvField w = rsvField w' ∧ argField w = argField w' ∧ opcField w = opcField w' := by
  constructor
  · rintro rfl
    exact ⟨rfl, rfl, rfl⟩
  · rintro ⟨hrsv, harg, hopc⟩
    rw [← append_fields w, ← append_fields w', hrsv, harg, hopc]

@[simp] theorem rsvField_and (w m : Word) : rsvField (w &&& m) = rsvField w &&& rsvField m :=
  BitVec.extractLsb'_and

@[simp] theorem argField_and (w m : Word) : argField (w &&& m) = argField w &&& argField m :=
  BitVec.extractLsb'_and

@[simp] theorem opcField_and (w m : Word) : opcField (w &&& m) = opcField w &&& opcField m :=
  BitVec.extractLsb'_and

/-- OPC of each command (rule R59). -/
def opcOf : Instr → BitVec 4
  | .nop => 0x0
  | .init _ => 0x1
  | .absorb _ => 0x2
  | .squeeze _ => 0x3

/-- ARG is legal, and says the operand of the command (rule R60). -/
def ArgMeans (arg : BitVec 3) : Instr → Prop
  | .nop => arg = 0
  | .init .shake128 => arg = 0
  | .init .shake256 => arg = 1
  | .absorb n => arg ≤ 4 ∧ arg.toNat = n
  | .squeeze n => arg ≤ 4 ∧ arg.toNat = n

theorem ArgMeans.unique {a b : BitVec 3} {i : Instr} (ha : ArgMeans a i) (hb : ArgMeans b i) : a = b := by
  cases i with
  | nop => exact ha.trans hb.symm
  | init v => cases v <;> exact ha.trans hb.symm
  | absorb n => exact BitVec.eq_of_toNat_eq (ha.2.trans hb.2.symm)
  | squeeze n => exact BitVec.eq_of_toNat_eq (ha.2.trans hb.2.symm)

theorem wellFormed_absorb_iff {n : Nat} : (Instr.absorb n).WellFormed ↔ n ≤ 4 := decide_eq_true_iff

theorem wellFormed_squeeze_iff {n : Nat} : (Instr.squeeze n).WellFormed ↔ n ≤ 4 := decide_eq_true_iff

theorem ArgMeans.wellFormed {a : BitVec 3} {i : Instr} (h : ArgMeans a i) : i.WellFormed := by
  cases i with
  | nop => rfl
  | init v => rfl
  | absorb n => exact wellFormed_absorb_iff.mpr (h.2 ▸ h.1)
  | squeeze n => exact wellFormed_squeeze_iff.mpr (h.2 ▸ h.1)

/-! ### Decoding and encoding -/

/-- Rule R61, from the side of the command decoded: every branch of `decode` fixes the fields that decide it. -/
theorem decode_eq_ok_iff_fields {w : Word} {i : Instr} :
    decode w = .ok i ↔ rsvField w = 0 ∧ opcField w = opcOf i ∧ ArgMeans (argField w) i := by
  unfold decode
  cases i with
  | nop => split_ifs <;> simp_all [opcOf, ArgMeans]
  | init v => cases v <;> split_ifs <;> simp_all [opcOf, ArgMeans]
  | absorb n => split_ifs <;> simp_all [opcOf, ArgMeans]
  | squeeze n => split_ifs <;> simp_all [opcOf, ArgMeans]

/-- The encoder fills the fields as rules R58 to R60 say. -/
theorem fields_encode {i : Instr} (h : i.WellFormed) :
    rsvField (encode i) = 0 ∧ opcField (encode i) = opcOf i ∧ ArgMeans (argField (encode i)) i := by
  cases i with
  | nop => exact ⟨rfl, rfl, rfl⟩
  | init v => cases v <;> exact ⟨rfl, rfl, rfl⟩
  | absorb n =>
    have hn : n ≤ 4 := wellFormed_absorb_iff.mp h
    interval_cases n <;> exact ⟨rfl, rfl, by decide, rfl⟩
  | squeeze n =>
    have hn : n ≤ 4 := wellFormed_squeeze_iff.mp h
    interval_cases n <;> exact ⟨rfl, rfl, by decide, rfl⟩

/-- Settles O9. -/
theorem decodeOfEncode : Obligations.DecodeOfEncode := fun _ h => decode_eq_ok_iff_fields.mpr (fields_encode h)

/-- A word that decodes has every field fixed by its command, so it is that command's encoding. -/
theorem decode_eq_ok_iff {w : Word} {i : Instr} : decode w = .ok i ↔ i.WellFormed ∧ encode i = w := by
  constructor
  · intro h
    obtain ⟨hrsv, hopc, harg⟩ := decode_eq_ok_iff_fields.mp h
    obtain ⟨hrsv', hopc', harg'⟩ := fields_encode harg.wellFormed
    exact ⟨harg.wellFormed, word_eq_iff_fields.mpr ⟨hrsv'.trans hrsv.symm, harg'.unique harg, hopc'.trans hopc.symm⟩⟩
  · rintro ⟨h, rfl⟩
    exact decodeOfEncode i h

/-- The commands of rule R67's table, in its order. -/
def legalCommands : List Instr :=
  [.nop, .init .shake128, .init .shake256, .absorb 0, .absorb 1, .absorb 2, .absorb 3, .absorb 4,
    .squeeze 0, .squeeze 1, .squeeze 2, .squeeze 3, .squeeze 4]

theorem mem_legalCommands_iff {i : Instr} : i ∈ legalCommands ↔ i.WellFormed := by
  cases i with
  | nop => decide
  | init v => cases v <;> decide
  | absorb n => rw [wellFormed_absorb_iff]; simp [legalCommands]; omega
  | squeeze n => rw [wellFormed_squeeze_iff]; simp [legalCommands]; omega

/-- Settles O8: the table's words are the encodings of the well-formed commands. -/
theorem legalWordsAreTheThirteen : Obligations.LegalWordsAreTheThirteen := by
  intro w i
  have htable : (w, i) ∈ legalCommands.map (fun j => (encode j, j)) ↔ i ∈ legalCommands ∧ encode i = w := by
    simp [and_comm]
  rw [decode_eq_ok_iff, ← mem_legalCommands_iff, ← htable]
  rfl

/-- Settles O7. -/
theorem commandWordsDecode : Obligations.CommandWordsDecode := ⟨rfl, rfl, rfl, rfl, rfl⟩

/-! ### Masks and matches -/

/-- A mask that keeps RSV and OPC whole (rule R68). -/
theorem and_eq_iff_fields {w mask word : Word} (hrsv : rsvField mask = BitVec.allOnes 25)
    (hopc : opcField mask = BitVec.allOnes 4) :
    w &&& mask = word ↔
      rsvField w = rsvField word ∧ argField w &&& argField mask = argField word ∧ opcField w = opcField word := by
  rw [word_eq_iff_fields, rsvField_and, argField_and, opcField_and, hrsv, hopc, BitVec.and_allOnes, BitVec.and_allOnes]

/-- Such a mask, with what remains to be said of ARG as a condition of its own. -/
theorem decode_eq_ok_iff_mask {w mask word : Word} {i : Instr} {argCondition : Prop}
    (hrsv : rsvField mask = BitVec.allOnes 25) (hopc : opcField mask = BitVec.allOnes 4)
    (hrsv' : rsvField word = 0) (hopc' : opcField word = opcOf i)
    (harg : ArgMeans (argField w) i ↔ argField w &&& argField mask = argField word ∧ argCondition) :
    decode w = .ok i ↔ w &&& mask = word ∧ argCondition := by
  rw [decode_eq_ok_iff_fields, and_eq_iff_fields hrsv hopc, hrsv', hopc', harg]
  tauto

theorem argMeans_init_iff (arg : BitVec 3) (v : Variant) :
    ArgMeans arg (.init v) ↔ arg &&& 0b110#3 = 0 ∧ (v = .shake256 ↔ arg.getLsbD 0 = true) := by
  cases v <;> simp only [ArgMeans] <;> decide +revert

theorem getLsbD_four_eq_argField (w : Word) : w.getLsbD 4 = (argField w).getLsbD 0 := by
  simp [argField]

theorem le_and_toNat_eq_iff (arg : BitVec 3) (n : Nat) :
    arg ≤ 4 ∧ arg.toNat = n ↔ arg &&& 0#3 = 0 ∧ arg.toNat = n ∧ n ≤ 4 := by
  rw [BitVec.and_zero, BitVec.le_def]
  constructor
  · rintro ⟨h, rfl⟩
    exact ⟨rfl, rfl, h⟩
  · rintro ⟨-, rfl, h⟩
    exact ⟨h, rfl⟩

/-- Settles O10. Each mask keeps RSV and OPC, and NOP's also ARG, which the other three check apart. -/
theorem maskAndMatchOfEachCommand : Obligations.MaskAndMatchOfEachCommand := by
  intro w
  refine ⟨?_, fun v => ?_, fun n => ?_, fun n => ?_⟩
  · have harg : ArgMeans (argField w) .nop ↔ argField w &&& BitVec.allOnes 3 = 0 ∧ True := by
      rw [BitVec.and_allOnes, and_true]
      rfl
    exact (decode_eq_ok_iff_mask rfl rfl rfl rfl harg).trans (and_iff_left trivial)
  · rw [getLsbD_four_eq_argField]
    exact decode_eq_ok_iff_mask rfl rfl rfl rfl (argMeans_init_iff (argField w) v)
  · exact decode_eq_ok_iff_mask rfl rfl rfl rfl (le_and_toNat_eq_iff (argField w) n)
  · exact decode_eq_ok_iff_mask rfl rfl rfl rfl (le_and_toNat_eq_iff (argField w) n)

end Sys2Proof

namespace Sys2Proof.Machine

/-! ### Illegal words -/

theorem runWord_of_illegal {w : Word} {r : IllegalWord} (h : decode w = .error r) (s : State) :
    runWord w s = .next (rejectIllegal s) := by
  simp [runWord, h]

/-- Settles O12. -/
theorem illegalWordRunsNothing : Obligations.IllegalWordRunsNothing :=
  fun s _ _ hdue hdec => (step_of_due hdue).trans (runWord_of_illegal hdec s)

end Sys2Proof.Machine
end

section
/-! More proofs for the family `30_encoding.md`: where absorbing and squeezing stand in the closed form of rule R92,
and the bus accesses of the pseudo-instructions of rule R66 (NEW, UPDATE and READ), run to their end. -/

namespace Sys2Proof.Machine

/-! ### Absorbing in the closed form -/

/-- `i` blocks of the message `m` are in S, and the rest of `m` is in BUF. -/
structure BlocksAbsorbed (v : Variant) (m : List Byte) (i : Nat) (s : State) : Prop where
  cfg : s.cfg = true
  var : s.var = v
  phase : s.phase = .absorbing
  lanes : s.lanes = absorbedState (rate v) m i
  buf : s.buf = m.drop (i * rate v)

/-- The message `m` is absorbed: every whole block of it is in S (rules R81 and R92). -/
def Absorbed (v : Variant) (m : List Byte) (s : State) : Prop := BlocksAbsorbed v m (m.length / rate v) s

theorem BlocksAbsorbed.rate_eq {v : Variant} {m : List Byte} {i : Nat} {s : State}
    (h : BlocksAbsorbed v m i s) : s.rate = rate v := congrArg rate h.var

theorem BlocksAbsorbed.absorbBlock {v : Variant} {m : List Byte} {i : Nat} {s : State}
    (h : BlocksAbsorbed v m i s) : BlocksAbsorbed v m (i + 1) (absorbBlock s) where
  cfg := h.cfg
  var := h.var
  phase := h.phase
  lanes := by rw [absorbBlock_lanes, h.rate_eq, h.lanes, h.buf, absorbedState]
  buf := by rw [absorbBlock_buf, h.rate_eq, h.buf, List.drop_drop, Nat.succ_mul]

/-- The absorb loop takes the whole blocks that are left, by induction on their number. -/
theorem BlocksAbsorbed.drained {v : Variant} {m : List Byte} {i k : Nat} {s : State}
    (h : BlocksAbsorbed v m i s) (hk : i + k = m.length / rate v) : Absorbed v m (drained s) := by
  have hpos : 0 < rate v := rate_pos v
  have hlength : s.buf.length = m.length - i * rate v := by rw [h.buf, List.length_drop]
  induction k generalizing i s with
  | zero =>
    have hlt : s.buf.length < s.rate := by
      rw [h.rate_eq, hlength, show i = m.length / rate v from hk, ← Nat.mod_eq_sub_div_mul]
      exact Nat.mod_lt _ hpos
    rw [drained_of_lt hlt]
    rw [Absorbed, ← hk]
    exact h
  | succ k ih =>
    have hle : s.rate ≤ s.buf.length := by
      have hblocks : (i + 1) * rate v ≤ m.length := (Nat.le_div_iff_mul_le hpos).mp (by omega)
      rw [h.rate_eq, hlength]
      rw [Nat.succ_mul] at hblocks
      omega
    rw [drained_of_le hle]
    exact ih h.absorbBlock (by omega) (by rw [h.absorbBlock.buf, List.length_drop])

/-- Bytes after the first `i` blocks do not matter to the state after these. -/
theorem absorbedState_append {r i : Nat} {m : List Byte} (b : List Byte) (h : i * r ≤ m.length) :
    absorbedState r (m ++ b) i = absorbedState r m i := by
  induction i with
  | zero => rfl
  | succ i ih =>
    rw [Nat.succ_mul] at h
    have hblock : ((m ++ b).drop (i * r)).take r = (m.drop (i * r)).take r := by
      rw [List.drop_append_of_le_length (by omega), List.take_append_of_le_length (by rw [List.length_drop]; omega)]
    rw [absorbedState, absorbedState, ih (by omega), hblock]

/-- ABSORB_BYTES extends the message (rules R81 and R92). -/
theorem Absorbed.absorbBytes {v : Variant} {m : List Byte} {s : State} (h : Absorbed v m s) (b : List Byte) :
    Absorbed v (m ++ b) (absorbBytes b s) := by
  have hblocks : m.length / rate v * rate v ≤ m.length := Nat.div_mul_le_self _ _
  have hmore : m.length / rate v ≤ (m ++ b).length / rate v := Nat.div_le_div_right (by simp)
  have happ : BlocksAbsorbed v (m ++ b) (m.length / rate v) { s with buf := s.buf ++ b } :=
    { cfg := h.cfg, var := h.var, phase := h.phase
      lanes := h.lanes.trans (absorbedState_append b hblocks).symm
      buf := by rw [List.drop_append_of_le_length hblocks, ← h.buf] }
  rw [absorbBytes_eq_drained]
  exact happ.drained (Nat.add_sub_cancel' hmore)

/-! ### Squeezing in the closed form -/

/-- The message `m` is being squeezed, and byte `d` of its stream is the next one (rule R92): S is the
state after `k` more permutations, whose output block is read up to CURSOR. -/
structure Squeezed (v : Variant) (m : List Byte) (d : Nat) (s : State) : Prop where
  cfg : s.cfg = true
  var : s.var = v
  phase : s.phase = .squeezing
  block : ∃ k, s.lanes = keccakIter k (paddedState (rate v) m) ∧ k * rate v + s.cursor = d ∧ s.cursor ≤ rate v

theorem keccakF_keccakIter (k : Nat) (A : Lanes) : keccakF (keccakIter k A) = keccakIter (k + 1) A := by
  induction k generalizing A with
  | zero => rfl
  | succ k ih => exact ih (keccakF A)

theorem Squeezed.rate_eq {v : Variant} {m : List Byte} {d : Nat} {s : State} (h : Squeezed v m d s) :
    s.rate = rate v := congrArg rate h.var

/-- A used-up output block is replaced, and the next byte is the same one of the stream (rule R86). -/
theorem Squeezed.refill {v : Variant} {m : List Byte} {d : Nat} {s : State} (h : Squeezed v m d s) :
    Squeezed v m d (refill s) ∧ (refill s).cursor < rate v := by
  obtain ⟨k, hlanes, hd, hle⟩ := h.block
  by_cases hend : s.cursor = s.rate
  · rw [Machine.refill, if_pos hend]
    have hnext : (k + 1) * rate v + 0 = d := by rw [Nat.succ_mul, ← hd, hend, h.rate_eq, Nat.add_zero]
    exact ⟨⟨h.cfg, h.var, h.phase, k + 1, by rw [← keccakF_keccakIter, ← hlanes]; rfl, hnext, Nat.zero_le _⟩,
      rate_pos v⟩
  · rw [Machine.refill, if_neg hend]
    rw [h.rate_eq] at hend
    exact ⟨h, by omega⟩

/-- One byte of SQUEEZE_BYTES is the next of the stream (rules R86 and R92). -/
theorem Squeezed.squeezeByte {v : Variant} {m : List Byte} {d : Nat} {s : State} (h : Squeezed v m d s) :
    (squeezeByte s).1 = streamByte v m d ∧ Squeezed v m (d + 1) (squeezeByte s).2 := by
  obtain ⟨h, hlt⟩ := h.refill
  obtain ⟨k, hlanes, hd, -⟩ := h.block
  have hdiv : d / rate v = k := by
    rw [← hd, Nat.add_comm, Nat.add_mul_div_right _ _ (rate_pos v), Nat.div_eq_of_lt hlt, Nat.zero_add]
  have hmod : d % rate v = (Machine.refill s).cursor := by
    rw [← hd, Nat.mul_add_mod_of_lt hlt]
  constructor
  · rw [streamByte, hdiv, hmod, ← hlanes]
    rfl
  · exact ⟨h.cfg, h.var, h.phase, k, hlanes, congrArg (· + 1) hd, hlt⟩

theorem streamBytes_add (v : Variant) (m : List Byte) (d a b : Nat) :
    streamBytes v m d (a + b) = streamBytes v m d a ++ streamBytes v m (d + a) b := by
  simp [streamBytes, List.range_add, Function.comp_def, Nat.add_assoc]

@[simp] theorem streamBytes_length (v : Variant) (m : List Byte) (d n : Nat) : (streamBytes v m d n).length = n := by
  simp [streamBytes]

/-- SQUEEZE_BYTES delivers the next bytes of the stream (rules R86 and R92). -/
theorem Squeezed.squeezeBytes {v : Variant} {m : List Byte} {d : Nat} {s : State} (h : Squeezed v m d s) (n : Nat) :
    (squeezeBytes n s).1 = streamBytes v m d n ∧ Squeezed v m (d + n) (squeezeBytes n s).2 := by
  induction n generalizing d s with
  | zero => exact ⟨rfl, h⟩
  | succ n ih =>
    obtain ⟨hbyte, hnext⟩ := h.squeezeByte
    obtain ⟨hbytes, hend⟩ := ih hnext
    have hsplit : streamBytes v m d (n + 1) = streamByte v m d :: streamBytes v m (d + 1) n := by
      rw [Nat.add_comm, streamBytes_add]
      rfl
    have hadd : d + (n + 1) = d + 1 + n := by omega
    rw [hsplit, hadd, ← hbyte, ← hbytes]
    exact ⟨rfl, hend⟩

/-- FINALIZE pads the absorbed message (rules R83 and R92). -/
theorem Absorbed.finalize {v : Variant} {m : List Byte} {s : State} (h : Absorbed v m s) :
    Squeezed v m 0 (finalize s) := by
  rw [finalize_absorbing h.phase]
  refine ⟨h.cfg, h.var, rfl, 0, ?_, by simp, Nat.zero_le _⟩
  rw [keccakIter, paddedState, ← h.lanes, ← h.buf, ← h.rate_eq]

/-- The next SQUEEZE starts at byte `d` of the stream, also where it is the first. -/
def StreamsFrom (v : Variant) (m : List Byte) (d : Nat) (s : State) : Prop :=
  (Absorbed v m s ∧ d = 0) ∨ Squeezed v m d s

theorem StreamsFrom.cfg {v : Variant} {m : List Byte} {d : Nat} {s : State} (h : StreamsFrom v m d s) :
    s.cfg = true := by
  rcases h with ⟨h, -⟩ | h
  · exact h.cfg
  · exact h.cfg

theorem StreamsFrom.finalize {v : Variant} {m : List Byte} {d : Nat} {s : State} (h : StreamsFrom v m d s) :
    Squeezed v m d (finalize s) := by
  rcases h with ⟨h, rfl⟩ | h
  · exact h.finalize
  · rw [finalize_squeezing h.phase]
    exact h

/-- SQUEEZE N delivers the next N bytes of the stream into DOUT (rules R92 and R98). -/
theorem StreamsFrom.performSqueeze {v : Variant} {m : List Byte} {d : Nat} {s : State} (h : StreamsFrom v m d s)
    (n : Nat) : (performSqueeze n s).dout = packWord (streamBytes v m d n) ∧
      Squeezed v m (d + n) (performSqueeze n s) := by
  obtain ⟨hbytes, hend⟩ := h.finalize.squeezeBytes n
  exact ⟨congrArg packWord hbytes, hend.cfg, hend.var, hend.phase, hend.block⟩

theorem absorbed_performInit (v : Variant) (s : State) : Absorbed v [] (performInit v s) :=
  ⟨rfl, rfl, rfl, by simp [performInit, absorbedState], by simp [performInit]⟩

/-! ### The closed form depends on the elements alone -/

theorem BlocksAbsorbed.of_sameElements {v : Variant} {m : List Byte} {i : Nat} {s u : State}
    (h : BlocksAbsorbed v m i s) (hu : s.SameElements u) : BlocksAbsorbed v m i u := by
  obtain ⟨hlanes, hbuf, hphase, -, hcfg, hvar, -⟩ := hu
  exact ⟨hcfg.trans h.cfg, hvar.trans h.var, hphase.trans h.phase, hlanes.trans h.lanes, hbuf.trans h.buf⟩

theorem Squeezed.of_sameElements {v : Variant} {m : List Byte} {d : Nat} {s u : State}
    (h : Squeezed v m d s) (hu : s.SameElements u) : Squeezed v m d u := by
  obtain ⟨hlanes, -, hphase, hcursor, hcfg, hvar, -⟩ := hu
  exact ⟨hcfg.trans h.cfg, hvar.trans h.var, hphase.trans h.phase, hlanes ▸ hcursor ▸ h.block⟩

/-! ### Runs of the block -/

/-- Steps of the block lead from `s` to `t`. -/
def Reaches (s t : State) : Prop := ∃ k, core.run k s = .next t

theorem Reaches.refl (s : State) : Reaches s s := ⟨0, rfl⟩

theorem Reaches.step {s u t : State} (h : step s = .next u) (hrest : Reaches u t) : Reaches s t := by
  obtain ⟨k, hk⟩ := hrest
  exact ⟨k + 1, (core_run_succ h k).trans hk⟩

/-- A run that ends in a next state takes its first step to one. -/
theorem step_of_core_run_succ {k : Nat} {s t : State} (h : core.run (k + 1) s = .next t) :
    ∃ u, Machine.step s = .next u ∧ core.run k u = .next t := by
  cases hs : Machine.step s with
  | next u => exact ⟨u, rfl, (core_run_succ hs k).symm.trans h⟩
  | fault r =>
    have hcore : core.step s = .fault r := hs
    simp [Host.Core.run, hcore] at h
  | refused r =>
    have hcore : core.step s = .refused r := hs
    simp [Host.Core.run, hcore] at h

theorem Reaches.trans {s u t : State} (h : Reaches s u) (hrest : Reaches u t) : Reaches s t := by
  obtain ⟨k, hk⟩ := h
  induction k generalizing s with
  | zero =>
    cases hk
    exact hrest
  | succ k ih =>
    obtain ⟨s', hstep, hk⟩ := step_of_core_run_succ hk
    exact .step hstep (ih hk)

/-! ### The host's accesses, one by one -/

/-- The block is between commands, the accesses `as` are all that the host does next, and `ws` are the words read
so far, newest first. -/
structure Waiting (as : List Access) (ws : List Word) (s : State) : Prop where
  busy : s.busy = none
  resetLine : s.resetLine = false
  events : s.events = as.map .access
  replies : s.replies = ws

/-- The stall of rule R125 holds the first of these accesses, if there is one. -/
def Held (as : List Access) : Prop := ∀ a ∈ as.head?, answeredWhileBusy (.access a) = false

theorem Held.takenWhileBusy_eq_none {as : List Access} (h : Held as) : takenWhileBusy (as.map .access) = none := by
  cases as with
  | nil => rfl
  | cons a as => simp [takenWhileBusy, h a rfl]

theorem held_nil : Held [] := by simp [Held]

theorem held_wrCmd_cons (i : Instr) (as : List Access) : Held (wrCmd i :: as) := by
  simp [Held, answeredWhileBusy, wrCmd, wrCmdWord, Access.target, regAt]

theorem held_wrDin_cons (w : Word) (as : List Access) : Held (wrDin w :: as) := by
  simp [Held, answeredWhileBusy, wrDin, Access.target, regAt]

theorem held_rdDout_cons (as : List Access) : Held (rdDout :: as) := by
  simp [Held, answeredWhileBusy, rdDout, Access.target, regAt]

/-- A command written to CMD is accepted and runs to its end (rules R43 and R126). -/
theorem Waiting.runCommand {i : Instr} {as : List Access} {ws : List Word} {s : State}
    (h : Waiting (wrCmd i :: as) ws s) (hwf : i.WellFormed) (hheld : Held as) :
    ∃ u, s.SameElements u ∧ Reaches s (runCommand i (performOf i) u) ∧
      Waiting as ws (runCommand i (performOf i) u) := by
  have haccept := step_register .cmd h.busy h.resetLine h.events
  set u := serve .cmd (.write (encode i)) { s with events := as.map .access }
  have hdue : u.Due ⟨encode i, Config.busyReads s.draws⟩ := ⟨rfl, .inr hheld.takenWhileBusy_eq_none⟩
  have hrun : step u = .next (Machine.runCommand i (performOf i) u) := by
    rw [step_of_due hdue, runWord_of_decode (decodeOfEncode i hwf), exec_eq_runCommand]
  obtain ⟨-, hline, hevents, hreplies, -, hbusy⟩ := commandFrame i u _ (exec_eq_runCommand i u)
  exact ⟨u, by simp [State.SameElements, u, serve], .step haccept (.step hrun (.refl _)),
    hbusy, hline.trans h.resetLine, hevents, hreplies.trans h.replies⟩

/-- Between commands of a host that has had no error since INIT (rules R28 and R29). -/
structure Session (as : List Access) (ws : List Word) (s : State) : Prop extends Waiting as ws s where
  err : s.err = .ok
  sticky : s.sticky = false

/-- NEW V (rule R66). -/
theorem Waiting.init {v : Variant} {as : List Access} {ws : List Word} {s : State}
    (h : Waiting (wrCmd (.init v) :: as) ws s) (hheld : Held as) :
    ∃ t, Reaches s t ∧ Session as ws t ∧ Absorbed v [] t := by
  obtain ⟨u, -, hrun, hwaiting⟩ := h.runCommand rfl hheld
  rw [runCommand_of_ok (check_init v u)] at hrun hwaiting
  obtain ⟨hcfg, hvar, hphase, hlanes, hbuf⟩ := absorbed_performInit v u
  exact ⟨_, hrun, ⟨hwaiting, rfl, rfl⟩, hcfg, hvar, hphase, hlanes, hbuf⟩

theorem Session.absorb {v : Variant} {m : List Byte} {n : Nat} {as : List Access} {ws : List Word} {s : State}
    (h : Session (wrCmd (.absorb n) :: as) ws s) (ha : Absorbed v m s) (hn : n ≤ 4) (hheld : Held as) :
    ∃ t, Reaches s t ∧ Session as ws t ∧ Absorbed v (m ++ dinBytes n s.din) t := by
  obtain ⟨u, hsame, hrun, hwaiting⟩ := h.runCommand (wellFormed_absorb_iff.mpr hn) hheld
  have hau : Absorbed v m u := BlocksAbsorbed.of_sameElements ha hsame
  have hok : check (.absorb n) u = .ok := by simp [check_absorb, hau.cfg, hau.phase, Nat.not_lt.mpr hn]
  rw [runCommand_of_ok hok] at hrun hwaiting
  obtain ⟨-, -, -, -, -, -, -, hsticky, hdin, -⟩ := hsame
  obtain ⟨-, -, -, -, hsticky', -⟩ := performAbsorb_unchanged n u
  obtain ⟨hcfg, hvar, hphase, hlanes, hbuf⟩ := hau.absorbBytes (dinBytes n u.din)
  rw [← hdin]
  exact ⟨_, hrun, ⟨hwaiting, rfl, hsticky'.trans (hsticky.trans h.sticky)⟩, hcfg, hvar, hphase, hlanes, hbuf⟩

theorem Session.squeeze {v : Variant} {m : List Byte} {d n : Nat} {as : List Access} {ws : List Word} {s : State}
    (h : Session (wrCmd (.squeeze n) :: as) ws s) (hs : StreamsFrom v m d s) (hn : n ≤ 4) (hheld : Held as) :
    ∃ t, Reaches s t ∧ Session as ws t ∧ Squeezed v m (d + n) t ∧ t.dout = packWord (streamBytes v m d n) := by
  obtain ⟨u, hsame, hrun, hwaiting⟩ := h.runCommand (wellFormed_squeeze_iff.mpr hn) hheld
  have hsu : StreamsFrom v m d u := hs.imp (fun ha => ⟨BlocksAbsorbed.of_sameElements ha.1 hsame, ha.2⟩)
    (·.of_sameElements hsame)
  have hok : check (.squeeze n) u = .ok := by simp [check_squeeze, hsu.cfg, Nat.not_lt.mpr hn]
  rw [runCommand_of_ok hok] at hrun hwaiting
  obtain ⟨-, -, -, -, -, -, -, hsticky, -⟩ := hsame
  obtain ⟨-, -, hsticky'⟩ := performSqueeze_unchanged n u
  obtain ⟨hdout, hcfg, hvar, hphase, hblock⟩ := hsu.performSqueeze n
  exact ⟨_, hrun, ⟨hwaiting, rfl, hsticky'.trans (hsticky.trans h.sticky)⟩, ⟨hcfg, hvar, hphase, hblock⟩, hdout⟩

/-- A write of DIN (rule R44) leaves what is absorbed. -/
theorem Session.writeDin {w : Word} {as : List Access} {ws : List Word} {s : State}
    (h : Session (wrDin w :: as) ws s) :
    ∃ t, Reaches s t ∧ Session as ws t ∧ t.din = w ∧ ∀ v m, Absorbed v m s → Absorbed v m t :=
  ⟨_, .step (step_register .din h.busy h.resetLine h.events) (.refl _),
    ⟨⟨h.busy, h.resetLine, rfl, h.replies⟩, h.err, h.sticky⟩, rfl,
    fun _ _ ha => ⟨ha.cfg, ha.var, ha.phase, ha.lanes, ha.buf⟩⟩

/-- A read of DOUT (rule R45) leaves the place in the stream. -/
theorem Session.readDout {as : List Access} {ws : List Word} {s : State} (h : Session (rdDout :: as) ws s) :
    ∃ t, Reaches s t ∧ Session as (s.dout :: ws) t ∧ ∀ v m d, Squeezed v m d s → Squeezed v m d t :=
  ⟨_, .step (step_register .dout h.busy h.resetLine h.events) (.refl _),
    ⟨⟨h.busy, h.resetLine, rfl, congrArg (s.dout :: ·) h.replies⟩, h.err, h.sticky⟩,
    fun _ _ _ hs => ⟨hs.cfg, hs.var, hs.phase, hs.block⟩⟩

/-! ### UPDATE -/

/-- Packing up to four bytes into a word and taking them from it (rules R47 and R48). -/
theorem dinBytes_packWord {o : List Byte} (ho : o.length ≤ 4) : dinBytes o.length (packWord o) = o := by
  refine List.ext_getElem (by simp [dinBytes]) fun k _ hk => ?_
  simp [dinBytes, packWord_byte o (k := k) (by omega), hk]

/-- ABSORBW of the bytes `o` (rule R66). -/
theorem Session.absorbW {v : Variant} {m o : List Byte} {as : List Access} {ws : List Word} {s : State}
    (h : Session (absorbW o.length (packWord o) ++ as) ws s) (ha : Absorbed v m s) (ho : o.length ≤ 4)
    (hheld : Held as) : ∃ t, Reaches s t ∧ Session as ws t ∧ Absorbed v (m ++ o) t := by
  obtain ⟨u, hwrite, hu, hdin, hkeeps⟩ := h.writeDin
  obtain ⟨t, habsorb, ht, hat⟩ := hu.absorb (hkeeps v m ha) ho hheld
  rw [hdin, dinBytes_packWord ho] at hat
  exact ⟨t, hwrite.trans habsorb, ht, hat⟩

theorem held_updateWords_append {as : List Access} (hheld : Held as) (b : List Byte) :
    Held (updateWords b ++ as) := by
  unfold updateWords
  split
  · exact held_wrDin_cons _ _
  · exact hheld
  all_goals exact held_wrDin_cons _ _

/-- The ABSORBW steps of UPDATE absorb the string (rule R66). -/
theorem Session.updateWords {v : Variant} {m : List Byte} (b : List Byte) {as : List Access} {ws : List Word}
    {s : State} (h : Session (updateWords b ++ as) ws s) (ha : Absorbed v m s) (hheld : Held as) :
    ∃ t, Reaches s t ∧ Session as ws t ∧ Absorbed v (m ++ b) t := by
  induction b using Machine.updateWords.induct generalizing m s with
  | case1 b₀ b₁ b₂ b₃ rest ih =>
    rw [Machine.updateWords, List.append_assoc] at h
    obtain ⟨u, hfirst, hu, hau⟩ :=
      Session.absorbW (o := [b₀, b₁, b₂, b₃]) h ha le_rfl (held_updateWords_append hheld rest)
    obtain ⟨t, hrest, ht, hat⟩ := ih hu hau
    exact ⟨t, hfirst.trans hrest, ht, by rwa [List.append_assoc] at hat⟩
  | case2 => exact ⟨s, .refl s, h, by rwa [List.append_nil]⟩
  | case3 b₀ => exact Session.absorbW (o := [b₀]) h ha (by simp) hheld
  | case4 b₀ b₁ => exact Session.absorbW (o := [b₀, b₁]) h ha (by simp) hheld
  | case5 b₀ b₁ b₂ => exact Session.absorbW (o := [b₀, b₁, b₂]) h ha (by simp) hheld

/-- UPDATE (rule R66). -/
theorem Session.update {v : Variant} {m : List Byte} (b : List Byte) {as : List Access} {ws : List Word}
    {s : State} (h : Session (update b ++ as) ws s) (ha : Absorbed v m s) (hheld : Held as) :
    ∃ t, Reaches s t ∧ Session as ws t ∧ Absorbed v (m ++ b) t := by
  unfold Machine.update at h
  split at h
  next hb =>
    subst hb
    exact h.absorb ha (Nat.zero_le 4) hheld
  next => exact h.updateWords b ha hheld

theorem held_update_append {as : List Access} (hheld : Held as) (b : List Byte) : Held (update b ++ as) := by
  unfold update
  split
  · exact held_wrCmd_cons _ _
  · exact held_updateWords_append hheld b

/-- NEW V, b (rule R66). -/
theorem Waiting.newSeeded {v : Variant} {b : List Byte} {as : List Access} {ws : List Word} {s : State}
    (h : Waiting (newSeeded v b ++ as) ws s) (hheld : Held as) :
    ∃ t, Reaches s t ∧ Session as ws t ∧ Absorbed v b t := by
  obtain ⟨u, hinit, hu, hau⟩ := Waiting.init (as := update b ++ as) h (held_update_append hheld b)
  obtain ⟨t, hupdate, ht, hat⟩ := hu.update b hau hheld
  exact ⟨t, hinit.trans hupdate, ht, hat⟩

/-! ### READ -/

/-- SQUEEZEW N (rule R66). -/
theorem Session.squeezeW {v : Variant} {m : List Byte} {d n : Nat} {as : List Access} {ws : List Word} {s : State}
    (h : Session (squeezeW n ++ as) ws s) (hs : StreamsFrom v m d s) (hn : n ≤ 4) :
    ∃ t, Reaches s t ∧ Session as (packWord (streamBytes v m d n) :: ws) t ∧ Squeezed v m (d + n) t := by
  obtain ⟨u, hsqueeze, hu, hsu, hdout⟩ := h.squeeze hs hn (held_rdDout_cons as)
  obtain ⟨t, hread, ht, hkeeps⟩ := hu.readDout
  rw [hdout] at ht
  exact ⟨t, hsqueeze.trans hread, ht, hkeeps _ _ _ hsu⟩

/-- The words that SQUEEZEWs of these counts read, from byte `d` of the stream on. -/
def streamWords (v : Variant) (m : List Byte) : Nat → List Nat → List Word
  | _, [] => []
  | d, n :: ns => packWord (streamBytes v m d n) :: streamWords v m (d + n) ns

theorem Session.squeezeWs {v : Variant} {m : List Byte} {d : Nat} {ns : List Nat} {ws : List Word} {s : State}
    (h : Session (ns.flatMap Machine.squeezeW) ws s) (hs : StreamsFrom v m d s) (hns : ∀ n ∈ ns, n ≤ 4) :
    ∃ t, Reaches s t ∧ Session [] ((streamWords v m d ns).reverse ++ ws) t ∧ StreamsFrom v m (d + ns.sum) t := by
  induction ns generalizing d ws s with
  | nil => exact ⟨s, .refl s, h, hs⟩
  | cons n ns ih =>
    rw [List.forall_mem_cons] at hns
    obtain ⟨u, hfirst, hu, hsu⟩ := Session.squeezeW h hs hns.1
    obtain ⟨t, hrest, ht, hst⟩ := ih hu (.inr hsu) hns.2
    refine ⟨t, hfirst.trans hrest, ?_, ?_⟩
    · simpa [streamWords] using ht
    · rwa [List.sum_cons, ← Nat.add_assoc]

@[simp] theorem streamWords_length (v : Variant) (m : List Byte) (d : Nat) (ns : List Nat) :
    (streamWords v m d ns).length = ns.length := by
  induction ns generalizing d with
  | nil => rfl
  | cons n ns ih => simp [streamWords, ih]

theorem readCounts_length (n : Nat) : (readCounts n).length = (n + 3) / 4 := by
  unfold readCounts
  split <;> simp <;> omega

theorem readCounts_sum (n : Nat) : (readCounts n).sum = n := by
  unfold readCounts
  split <;> simp <;> omega

theorem le_four_of_mem_readCounts {n c : Nat} (h : c ∈ readCounts n) : c ≤ 4 := by
  rcases List.mem_append.mp h with hfull | hlast
  · exact (List.eq_of_mem_replicate hfull).le
  · split at hlast
    · simp at hlast
    · have hc : c = n % 4 := by simpa using hlast
      omega

theorem take_dinBytes {n : Nat} (w : Word) (hn : n ≤ 4) : (dinBytes 4 w).take n = dinBytes n w := by
  rw [dinBytes, ← List.map_take, List.take_range, Nat.min_eq_left hn, dinBytes]

theorem dinBytes_packWord_streamBytes (v : Variant) (m : List Byte) (d : Nat) {n : Nat} (hn : n ≤ 4) :
    dinBytes n (packWord (streamBytes v m d n)) = streamBytes v m d n := by
  have h := dinBytes_packWord (o := streamBytes v m d n) (by rwa [streamBytes_length])
  rwa [streamBytes_length] at h

/-- Words of four bytes hold the stream with nothing between. -/
theorem flatMap_streamWords_full (v : Variant) (m : List Byte) (d q : Nat) (ns : List Nat) :
    (streamWords v m d (List.replicate q 4 ++ ns)).flatMap (dinBytes 4) =
      streamBytes v m d (q * 4) ++ (streamWords v m (d + q * 4) ns).flatMap (dinBytes 4) := by
  induction q generalizing d with
  | zero => simp [streamBytes]
  | succ q ih =>
    rw [List.replicate_succ, List.cons_append, streamWords, List.flatMap_cons, ih,
      dinBytes_packWord_streamBytes v m d le_rfl, Nat.succ_mul, Nat.add_comm (q * 4) 4, streamBytes_add,
      List.append_assoc, Nat.add_assoc]

/-- The first `n` bytes of the words that READ n reads are the stream's; only the last word may hold others, its
zeros (rule R48). -/
theorem take_flatMap_streamWords (v : Variant) (m : List Byte) (n : Nat) :
    ((streamWords v m 0 (readCounts n)).flatMap (dinBytes 4)).take n = streamBytes v m 0 n := by
  have hn : n / 4 * 4 + n % 4 = n := by omega
  rw [readCounts, flatMap_streamWords_full, List.take_append, streamBytes_length,
    List.take_of_length_le (by rw [streamBytes_length]; omega), show n - n / 4 * 4 = n % 4 by omega]
  conv_rhs => rw [← hn, streamBytes_add]
  congr 1
  split
  next hr => simp [hr, streamBytes]
  next hr =>
    have hlast : n % 4 ≤ 4 := by omega
    rw [streamWords, streamWords, List.flatMap_singleton, take_dinBytes _ hlast,
      dinBytes_packWord_streamBytes v m _ hlast]

/-- READ n (rule R66) after `m` is absorbed. -/
theorem Session.read {v : Variant} {m : List Byte} {n : Nat} {ws : List Word} {s : State}
    (h : Session (readAccesses n) ws s) (ha : Absorbed v m s) :
    ∃ t, Reaches s t ∧ Session [] ((streamWords v m 0 (readCounts n)).reverse ++ ws) t ∧ Squeezed v m n t := by
  unfold readAccesses at h
  split at h
  next hn =>
    subst hn
    obtain ⟨t, hrun, ht, hst, -⟩ := h.squeeze (.inl ⟨ha, rfl⟩) (Nat.zero_le 4) held_nil
    exact ⟨t, hrun, ht, hst⟩
  next hn =>
    obtain ⟨t, hrun, ht, hst⟩ := h.squeezeWs (.inl ⟨ha, rfl⟩) fun _ => le_four_of_mem_readCounts
    rw [readCounts_sum, Nat.zero_add] at hst
    exact ⟨t, hrun, ht, hst.resolve_left fun hzero => hn hzero.2⟩

theorem held_readAccesses (n : Nat) : Held (readAccesses n) := by
  unfold readAccesses
  split
  · exact held_wrCmd_cons _ _
  · cases readCounts n with
    | nil => exact held_nil
    | cons c cs => exact held_wrCmd_cons _ _

/-- Settles O60. -/
theorem facadeDeliversTheStream : Obligations.FacadeDeliversTheStream := by
  intro s v m n hb hline
  have hstart : Waiting (newSeeded v m ++ readAccesses n) s.replies
      (s.withAccesses (newSeeded v m ++ readAccesses n)) := ⟨hb, hline, rfl, rfl⟩
  obtain ⟨u, hnew, hu, hau⟩ := hstart.newSeeded (held_readAccesses n)
  obtain ⟨t, hread, ht, hst⟩ := hu.read hau
  obtain ⟨k, hrun⟩ := hnew.trans hread
  exact ⟨k, t, hrun, ht.events, ht.busy, ht.err, ht.sticky, hst.phase, _, ht.replies,
    by rw [streamWords_length, readCounts_length], take_flatMap_streamWords v m n⟩

end Sys2Proof.Machine
end

section
/-! SUPPORT and CERTIFICATES. The permutation (rules R69 to R78): the five step mappings read lane by lane, the
rounds in order, and the two tables against their generators. -/

namespace Sys2Proof.Machine

/-! ### The step mappings, lane by lane -/

theorem getElem_columns (f : Fin 5 → Lane) (x : Fin 5) : (columns f)[x] = f x := by
  fin_cases x <;> rfl

theorem getElem_thetaC (A : Lanes) (x : Fin 5) :
    (thetaC A)[x] = laneAt A x 0 ^^^ laneAt A x 1 ^^^ laneAt A x 2 ^^^ laneAt A x 3 ^^^ laneAt A x 4 :=
  getElem_columns _ x

/-- The model's `C[x - 1]` is the spec's `C[(x + 4) mod 5]`. -/
theorem getElem_thetaD (C : Vector Lane 5) (x : Fin 5) :
    (thetaD C)[x] = C[x + 4] ^^^ rotl64 C[x + 1] 1 := by
  have hprev : x - 1 = x + 4 := sub_eq_add_neg x 1
  simp only [thetaD, getElem_columns, hprev]

theorem laneAt_theta (A : Lanes) (x y : Fin 5) :
    laneAt (theta A) x y = laneAt A x y ^^^ (thetaD (thetaC A))[x] :=
  laneAt_lanesOf _ x y

theorem laneAt_rho (A : Lanes) (x y : Fin 5) :
    laneAt (rho A) x y = rotl64 (laneAt A x y) (rhoOffset x y) :=
  laneAt_lanesOf _ x y

theorem laneAt_piStep (A : Lanes) (x y : Fin 5) : laneAt (piStep A) x y = laneAt A (x + 3 * y) x :=
  laneAt_lanesOf _ x y

theorem laneAt_chi (A : Lanes) (x y : Fin 5) :
    laneAt (chi A) x y = laneAt A x y ^^^ (~~~ laneAt A (x + 1) y &&& laneAt A (x + 2) y) :=
  laneAt_lanesOf _ x y

/-- The two forms of rule R74 agree: where pi puts lane [x, y] is where it reads [x, y] from, since 10 = 0 and
6 = 1 mod 5. -/
theorem laneAt_piStep_target (A : Lanes) (x y : Fin 5) : laneAt (piStep A) y (2 * x + 3 * y) = laneAt A x y := by
  have hsource : y + 3 * (2 * x + 3 * y) = x := by revert x y; decide
  rw [laneAt_piStep, hsource]

/-- Lane number x + 5*y is 0 at (0, 0) alone. -/
theorem laneAt_set_zero (A : Lanes) (v : Lane) (x y : Fin 5) :
    laneAt (A.set 0 v) x y = if x = 0 ∧ y = 0 then v else laneAt A x y := by
  have hzero : 0 = x.val + 5 * y.val ↔ x = 0 ∧ y = 0 := by omega
  simp only [laneAt, Vector.getElem_set, hzero]

/-- Rule R76's table is the one rule R78's LFSR generates. -/
theorem roundConstant_eq_generatedConstant : ∀ ir : Fin 24, roundConstant ir = generatedConstant ir.val := by
  decide +kernel

theorem laneAt_iota (A : Lanes) (ir : Fin 24) (x y : Fin 5) :
    laneAt (iota A ir) x y =
      if x = 0 ∧ y = 0 then laneAt A 0 0 ^^^ generatedConstant ir.val else laneAt A x y := by
  rw [← roundConstant_eq_generatedConstant]
  exact laneAt_set_zero A _ x y

/-- Settles O46. -/
theorem thetaMixesColumnParities : Obligations.ThetaMixesColumnParities := by
  intro A C D hC hD x y
  have hparity (x : Fin 5) : (thetaC A)[x] = C x := (getElem_thetaC A x).trans (hC x).symm
  rw [laneAt_theta, getElem_thetaD, hparity, hparity, hD]

/-- Settles O47. -/
theorem rhoPiAndChiLaneByLane : Obligations.RhoPiAndChiLaneByLane := fun A x y =>
  ⟨laneAt_rho A x y, laneAt_piStep_target A x y, laneAt_piStep A x y, laneAt_chi A x y⟩

/-! ### The rounds -/

/-- Folding the `n` steps of `f`, in order, takes the first of a sequence of states to its last. -/
theorem foldl_finRange_of_steps {α : Type} {n : Nat} {f : α → Fin n → α} {B : Nat → α}
    (h : ∀ i : Fin n, B (i.val + 1) = f (B i.val) i) : (List.finRange n).foldl f (B 0) = B n := by
  induction n with
  | zero => rfl
  | succ n ih =>
    have hfirst : (List.finRange n).foldl (fun a i => f a i.castSucc) (B 0) = B n := ih fun i => h i.castSucc
    rw [List.finRange_succ_last, List.foldl_append, List.foldl_map, hfirst]
    exact (h (Fin.last n)).symm

theorem keccakF_of_rounds {B : Nat → Lanes} (h : ∀ ir : Fin 24, B (ir.val + 1) = keccakRound (B ir.val) ir) :
    keccakF (B 0) = B 24 := by
  unfold keccakF
  exact foldl_finRange_of_steps h

/-- Settles O48. The third clause, V-P1, is one closed evaluation of the permutation. -/
theorem iotaInjectsTheGeneratedConstant : Obligations.IotaInjectsTheGeneratedConstant :=
  ⟨laneAt_iota, fun _ => keccakF_of_rounds, by decide +kernel, fun _ => rfl⟩

/-! ### The rotation offsets -/

/-- Settles O49: 25 closed equations, one for each entry of the table. -/
theorem rotationOffsetsFollowTheWalk : Obligations.RotationOffsetsFollowTheWalk :=
  ⟨rfl, by decide⟩

end Sys2Proof.Machine
end

section
/-! Proofs for the family `41_sponge.md`: XOR_BLOCK and PAD (rules R82 and R84), splitting what is absorbed and
squeezed (rules R89 and R90), the closed-form output of any list of commands (rules R91 and R92), and the buffer
kept inside S (rule R93). -/

namespace Sys2Proof.Machine

/-! ### Blocks and padding -/

/-- Settles O51. A byte that the block does not have is XORed in as zero. -/
theorem xorBlockReachesTheFirstBytesAlone : Obligations.XorBlockReachesTheFirstBytesAlone := by
  intro A p j hj
  rw [stateByte_xorBlock A p hj]
  constructor
  · intro b hb
    rw [hb, Option.getD_some]
  · intro hlen
    rw [List.getElem?_eq_none hlen, Option.getD_none]
    exact BitVec.xor_zero

theorem bitsOf_append (p q : List Byte) : bitsOf (p ++ q) = bitsOf p ++ bitsOf q := List.flatMap_append

theorem bitsOf_replicate_zero (k : Nat) : bitsOf (List.replicate k 0) = List.replicate (8 * k) false := by
  have hzero : ((List.range 8).map fun j => (0 : Byte).getLsbD j) = List.replicate 8 false := by decide
  rw [bitsOf, List.flatMap_replicate, hzero, List.flatten_replicate_replicate, Nat.mul_comm]

theorem modify_concat_last (p : List Byte) (b : Byte) (f : Byte → Byte) :
    (p ++ [b]).modify p.length f = p ++ [f b] :=
  List.modifyTailIdx_add (List.modifyHead f) 0 p [b]

/-- Where one byte is free, the suffix and both ends of the padding share it (rule R84). -/
theorem pad_one_free (buf : List Byte) : pad (buf.length + 1) buf = buf ++ [0x9F] := by
  simp [pad, modify_concat_last]

/-- Where more than one byte is free, the trailing 1 has a byte of its own (rule R84). -/
theorem pad_more_free (buf : List Byte) (k : Nat) :
    pad (buf.length + k + 2) buf = buf ++ [0x1F] ++ List.replicate k 0 ++ [0x80] := by
  have hfree : buf.length + k + 2 - buf.length - 1 = k + 1 := by omega
  have hlast : buf.length + k + 2 - 1 = (buf ++ [0x1F#8] ++ List.replicate k 0).length := by simp; omega
  rw [pad, hfree, hlast, List.replicate_succ', ← List.append_assoc, modify_concat_last]
  rfl

theorem bitsOf_pad {r : Nat} {buf : List Byte} (h : buf.length < r) : bitsOf (pad r buf) = padBits r buf := by
  have hone : bitsOf [0x9F] = [true, true, true, true] ++ [true] ++ List.replicate 2 false ++ [true] := by decide
  have hfirst : bitsOf [0x1F] = [true, true, true, true] ++ [true] ++ List.replicate 3 false := by decide
  have hlast : bitsOf [0x80] = List.replicate 7 false ++ [true] := by decide
  obtain ⟨k, rfl⟩ := Nat.exists_eq_add_of_lt h
  cases k with
  | zero =>
    have hzeros : 8 * (buf.length + 0 + 1) - 8 * buf.length - 6 = 2 := by omega
    rw [padBits, hzeros, Nat.add_zero, pad_one_free, bitsOf_append, hone]
    simp only [List.append_assoc]
  | succ k =>
    have hzeros : 8 * (buf.length + (k + 1) + 1) - 8 * buf.length - 6 = 3 + (8 * k + 7) := by omega
    have hrate : buf.length + (k + 1) + 1 = buf.length + k + 2 := rfl
    rw [padBits, hzeros, List.replicate_add, List.replicate_add, hrate, pad_more_free]
    simp only [bitsOf_append, bitsOf_replicate_zero, hfirst, hlast, List.append_assoc]

/-- Settles O52. -/
theorem paddingIsTheBitRule : Obligations.PaddingIsTheBitRule := fun _ _ h => ⟨pad_length h, bitsOf_pad h⟩

/-! ### Splits of what is absorbed and squeezed -/

/-- A turn of the absorb loop leaves bytes that come after the block where they are (rule R81). -/
theorem absorbBlock_append {s : State} (h : s.rate ≤ s.buf.length) (b : List Byte) :
    absorbBlock { s with buf := s.buf ++ b } = { absorbBlock s with buf := (absorbBlock s).buf ++ b } := by
  have htake : (s.buf ++ b).take s.rate = s.buf.take s.rate := List.take_append_of_le_length h
  have hdrop : (s.buf ++ b).drop s.rate = s.buf.drop s.rate ++ b := List.drop_append_of_le_length h
  have hrate : State.rate { s with buf := s.buf ++ b } = s.rate := rfl
  simp only [absorbBlock, hrate, htake, hdrop]
  rfl

/-- The whole blocks in BUF may be taken before more bytes come, or with them (rule R89). -/
theorem absorbBytes_drained (b : List Byte) (s : State) : absorbBytes b (drained s) = absorbBytes b s := by
  by_cases h : s.buf.length < s.rate
  · rw [drained_of_lt h]
  · have hle : s.rate ≤ s.buf.length := Nat.le_of_not_lt h
    have hboth : s.rate ≤ (s.buf ++ b).length := by rw [List.length_append]; omega
    calc absorbBytes b (drained s)
        = absorbBytes b (drained (absorbBlock s)) := by rw [drained_of_le hle]
      _ = absorbBytes b (absorbBlock s) := absorbBytes_drained b (absorbBlock s)
      _ = drained (absorbBlock { s with buf := s.buf ++ b }) := by
          rw [absorbBytes_eq_drained, absorbBlock_append hle]
      _ = absorbBytes b s := (drained_of_le hboth).symm
termination_by s.buf.length
decreasing_by
  have hpos : 0 < s.rate := rate_pos s.var
  rw [absorbBlock_buf, List.length_drop]
  omega

/-- Settles O55. -/
theorem updateEquivalence : Obligations.UpdateEquivalence := by
  intro s a b
  calc absorbBytes b (absorbBytes a s)
      = absorbBytes b { s with buf := s.buf ++ a } := absorbBytes_drained b _
    _ = absorbBytes (a ++ b) s := by rw [absorbBytes_eq_drained, absorbBytes_eq_drained, List.append_assoc]

theorem squeezeBytes_add (m n : Nat) (s : State) :
    squeezeBytes (m + n) s = ((squeezeBytes m s).1 ++ (squeezeBytes n (squeezeBytes m s).2).1,
      (squeezeBytes n (squeezeBytes m s).2).2) := by
  induction m generalizing s with
  | zero => rw [Nat.zero_add]; rfl
  | succ m ih => rw [Nat.succ_add, squeezeBytes, ih]; rfl

/-- Settles O56. -/
theorem streamingConcatenation : Obligations.StreamingConcatenation := by
  intro s m n
  rw [squeezeBytes_add]
  exact ⟨rfl, rfl⟩

/-! ### The buffer kept inside S -/

theorem stateByte_xorByteAt (A : Lanes) (j : Nat) (b : Byte) {i : Nat} (hi : i < 200) :
    stateByte (xorByteAt A j b) i = stateByte A i ^^^ (if i = j then b else 0) := by
  rw [xorByteAt, stateByte_xorBlock A _ hi]
  rcases Nat.lt_trichotomy i j with h | rfl | h
  · simp [List.getElem?_append_left, h, h.ne]
  · simp
  · simp [h, h.ne']

theorem xorBlock_nil (A : Lanes) : xorBlock A [] = A := by
  refine lanes_ext_of_stateByte fun i hi => ?_
  simp [stateByte_xorBlock A [] hi]

theorem xorBlock_snoc (A : Lanes) (p : List Byte) (b : Byte) :
    xorBlock A (p ++ [b]) = xorByteAt (xorBlock A p) p.length b := by
  refine lanes_ext_of_stateByte fun i hi => ?_
  rw [stateByte_xorByteAt _ _ _ hi, stateByte_xorBlock _ _ hi, stateByte_xorBlock _ _ hi, BitVec.xor_assoc]
  congr 1
  rcases Nat.lt_trichotomy i p.length with h | rfl | h
  · simp [List.getElem?_append_left h, h.ne]
  · simp
  · simp [List.getElem?_eq_none, h.le, h.ne', Nat.succ_le_of_lt h]

/-- The padded block is the buffer, the suffix byte and the final bit, each XORed in (rules R84 and R93). -/
theorem xorBlock_pad {r : Nat} {buf : List Byte} (h : buf.length < r) (A : Lanes) :
    xorBlock A (pad r buf) = xorByteAt (xorByteAt (xorBlock A buf) buf.length 0x1F) (r - 1) 0x80 := by
  refine lanes_ext_of_stateByte fun i hi => ?_
  rw [stateByte_xorByteAt _ _ _ hi, stateByte_xorByteAt _ _ _ hi, stateByte_xorBlock _ _ hi,
    stateByte_xorBlock _ _ hi, pad_getD h]
  simp only [BitVec.xor_assoc]

@[simp] theorem absorbBytes_rate (m : List Byte) (s : State) : (absorbBytes m s).rate = s.rate :=
  absorbLoop_rate _ _

/-- ABSORB_BYTES of one byte, in place: it ends the block or lies within it (rule R93). -/
theorem inPlace_absorbBytes_singleton {s : State} (h : s.buf.length < s.rate) (b : Byte) :
    inPlace (absorbBytes [b] s) = inPlaceAbsorb s.rate (inPlace s) b := by
  by_cases hend : s.buf.length + 1 = s.rate
  · have hlen : (s.buf ++ [b]).length = s.rate := by simpa using hend
    have hblock : absorbBytes [b] s = absorbBlock { s with buf := s.buf ++ [b] } :=
      absorbBytes_one_block (by simp [hend]) (by simp; omega)
    have htake : (s.buf ++ [b]).take s.rate = s.buf ++ [b] := List.take_of_length_le hlen.le
    have hdrop : (s.buf ++ [b]).drop s.rate = [] := List.drop_eq_nil_of_le hlen.le
    have hrate : State.rate { s with buf := s.buf ++ [b] } = s.rate := rfl
    simp [hblock, inPlace, inPlaceAbsorb, hrate, htake, hdrop, hend, xorBlock_nil, xorBlock_snoc]
  · have happend : absorbBytes [b] s = { s with buf := s.buf ++ [b] } :=
      absorbBytes_append (by simp; omega)
    simp [happend, inPlace, inPlaceAbsorb, hend, xorBlock_snoc]

/-- ABSORB_BYTES in place, byte by byte, since the bytes may be absorbed one at a time (rules R89 and R93). -/
theorem inPlace_absorbBytes (m : List Byte) {s : State} (h : s.buf.length < s.rate) :
    inPlace (absorbBytes m s) = m.foldl (inPlaceAbsorb s.rate) (inPlace s) := by
  induction m generalizing s with
  | nil =>
    rw [absorbBytes_append (by simpa using h), List.append_nil]
    rfl
  | cons b m ih =>
    have hsplit : absorbBytes (b :: m) s = absorbBytes m (absorbBytes [b] s) := (updateEquivalence s [b] m).symm
    have hshort : (absorbBytes [b] s).buf.length < (absorbBytes [b] s).rate := by
      rw [absorbBytes_rate]
      exact absorbBytes_buf_length [b] s
    rw [hsplit, ih hshort, absorbBytes_rate, inPlace_absorbBytes_singleton h, List.foldl_cons]

/-- Settles O58. -/
theorem bufferMayBeKeptInsideTheState : Obligations.BufferMayBeKeptInsideTheState := by
  intro s m h
  refine ⟨inPlace_absorbBytes m h, fun hphase => ?_⟩
  rw [finalize_absorbing hphase]
  exact congrArg keccakF (xorBlock_pad h s.lanes)

/-! ### The output of a list of commands -/

theorem History.add_absorb (h : History) (w : Word) (n : Nat) :
    h.add (w, .absorb n) =
      if h.squeezed = none ∧ n ≤ 4 then { h with message := h.message ++ dinBytes n w } else h := rfl

theorem History.add_squeeze (h : History) (w : Word) (n : Nat) :
    h.add (w, .squeeze n) = if n ≤ 4 then { h with squeezed := some (h.squeezed.getD 0 + n) } else h := rfl

/-- The block stands where the commands since its INIT have brought it: it absorbs their message, or squeezes it
from the next byte on (rules R91 and R92). -/
def Follows (v : Variant) (h : History) (s : State) : Prop :=
  match h.squeezed with
  | none => Absorbed v h.message s
  | some d => Squeezed v h.message d s

section
variable {v : Variant} {h : History} {s u : State}

/-- Only the sponge's own elements say where the block stands. -/
theorem Follows.of_sponge (hs : Follows v h s) (hlanes : u.lanes = s.lanes) (hbuf : u.buf = s.buf)
    (hphase : u.phase = s.phase) (hcursor : u.cursor = s.cursor) (hcfg : u.cfg = s.cfg) (hvar : u.var = s.var) :
    Follows v h u := by
  unfold Follows at hs ⊢
  split at hs
  · exact ⟨hcfg.trans hs.cfg, hvar.trans hs.var, hphase.trans hs.phase, hlanes.trans hs.lanes, hbuf.trans hs.buf⟩
  · exact ⟨hcfg.trans hs.cfg, hvar.trans hs.var, hphase.trans hs.phase, hlanes ▸ hcursor ▸ hs.block⟩

theorem Follows.streamsFrom (hs : Follows v h s) : StreamsFrom v h.message (h.squeezed.getD 0) s := by
  unfold Follows at hs
  split at hs
  next heq => exact .inl ⟨hs, by rw [heq, Option.getD_none]⟩
  next heq => exact .inr (by rwa [heq, Option.getD_some])

theorem Follows.squeezed_eq_none_iff (hs : Follows v h s) : h.squeezed = none ↔ s.phase = .absorbing := by
  unfold Follows at hs
  split at hs
  next heq => simp [heq, hs.phase]
  next heq => simp [heq, hs.phase]

theorem Follows.check_absorb_iff (hs : Follows v h s) (n : Nat) :
    check (.absorb n) s = .ok ↔ h.squeezed = none ∧ n ≤ 4 := by
  rw [hs.squeezed_eq_none_iff]
  constructor
  · intro hok
    obtain ⟨hn, -, hphase⟩ := check_absorb_eq_ok hok
    exact ⟨hphase, hn⟩
  · rintro ⟨hphase, hn⟩
    simp [check_absorb, hs.streamsFrom.cfg, hphase, Nat.not_lt.mpr hn]

theorem Follows.check_squeeze_iff (hs : Follows v h s) (n : Nat) : check (.squeeze n) s = .ok ↔ n ≤ 4 := by
  refine ⟨fun hok => (check_squeeze_eq_ok hok).1, fun hn => ?_⟩
  simp [check_squeeze, hs.streamsFrom.cfg, Nat.not_lt.mpr hn]

/-- A command that passes its checks brings the block where the history says (rules R95, R97 and R98). -/
theorem Follows.performOf {i : Instr} (hs : Follows v h s) (hok : check i s = .ok) (hi : ∀ w, i ≠ .init w) :
    Follows v (h.add (s.din, i)) (performOf i s) := by
  cases i with
  | nop => exact hs
  | init w => exact absurd rfl (hi w)
  | absorb n =>
    have hpass := (hs.check_absorb_iff n).mp hok
    rw [History.add_absorb, if_pos hpass]
    unfold Follows at hs ⊢
    simp only [hpass.1] at hs ⊢
    exact hs.absorbBytes _
  | squeeze n =>
    have hpass := (hs.check_squeeze_iff n).mp hok
    rw [History.add_squeeze, if_pos hpass]
    exact (hs.streamsFrom.performSqueeze n).2

/-- A command that fails a check asks for nothing (rules R91 and R109). -/
theorem Follows.add_of_fail {i : Instr} (hs : Follows v h s) (hfail : check i s ≠ .ok) (w : Word) :
    h.add (w, i) = h := by
  cases i with
  | nop => rfl
  | init u => exact absurd (check_init u s) hfail
  | absorb n => exact if_neg (mt (hs.check_absorb_iff n).mpr hfail)
  | squeeze n => exact if_neg (mt (hs.check_squeeze_iff n).mpr hfail)

theorem Follows.runCommand {i : Instr} (hs : Follows v h s) (hi : ∀ w, i ≠ .init w) :
    Follows v (h.add (s.din, i)) (runCommand i (Machine.performOf i) s) := by
  rcases runCommand_cases i (Machine.performOf i) s with ⟨hok, hrun⟩ | ⟨hfail, hrun⟩
  · rw [hrun]
    exact (hs.performOf hok hi).of_sponge rfl rfl rfl rfl rfl rfl
  · rw [hrun, hs.add_of_fail hfail]
    exact hs.of_sponge rfl rfl rfl rfl rfl rfl

/-- Every list of commands but INIT runs to its end and brings the block where its history says. -/
theorem Follows.runCommands {l : List (Word × Instr)} (hs : Follows v h s) (hl : ∀ p ∈ l, ∀ w, p.2 ≠ .init w) :
    ∃ t, runCommands l s = .next t ∧ Follows v (l.foldl History.add h) t := by
  induction l generalizing h s with
  | nil => exact ⟨s, rfl, hs⟩
  | cons p l ih =>
    obtain ⟨hp, hl⟩ := List.forall_mem_cons.mp hl
    have hdin : Follows v h { s with din := p.1 } := hs.of_sponge rfl rfl rfl rfl rfl rfl
    obtain ⟨t, hrun, ht⟩ := ih (hdin.runCommand hp) hl
    refine ⟨t, ?_, ht⟩
    rw [Machine.runCommands, exec_eq_runCommand]
    exact hrun

end

theorem follows_performInit (v : Variant) (s : State) : Follows v ⟨[], none⟩ (performInit v s) :=
  absorbed_performInit v s

/-- Settles O57. -/
theorem outputIsTheClosedFormStream : Obligations.OutputIsTheClosedFormStream := by
  intro v s l n hl hn
  have hinit : exec (.init v) s = .next (finish (setErr .ok (performInit v s))) := by
    rw [exec_eq_runCommand, runCommand_of_ok (check_init v s)]
    rfl
  have hstart : Follows v ⟨[], none⟩ (finish (setErr .ok (performInit v s))) :=
    (follows_performInit v s).of_sponge rfl rfl rfl rfl rfl rfl
  obtain ⟨t, hrun, ht⟩ := hstart.runCommands hl
  obtain ⟨hdout, -⟩ := ht.streamsFrom.performSqueeze n
  exact ⟨_, t, _, hinit, hrun, exec_squeeze hn ht.streamsFrom.cfg, rfl, hdout⟩

end Sys2Proof.Machine
end

section
/-! Proofs for the family `42_xof_commands.md`: what each command's completion leaves in the state (rules R94 to
R98), and the outcome code and STICKY (rules R29, R104 and R110). -/

namespace Sys2Proof.Machine

/-! ### NOP and INIT -/

/-- Settles O14. -/
theorem nopCompletes : Obligations.NopCompletes := by
  refine ⟨fun s => ?_, rfl⟩
  rw [exec_eq_runCommand, runCommand_of_ok (check_nop s)]
  rfl

/-- Settles O15. -/
theorem initCompletes : Obligations.InitCompletes := by
  intro v s
  rw [exec_eq_runCommand, runCommand_of_ok (check_init v s)]
  rfl

/-! ### ABSORB -/

@[simp] theorem dinBytes_length (n : Nat) (din : Word) : (dinBytes n din).length = n := by simp [dinBytes]

/-- An ABSORB that passes its checks takes its effect (rules R94 and R97). -/
theorem exec_absorb {n : Nat} {s : State} (hn : n ≤ 4) (hcfg : s.cfg = true) (hphase : s.phase = .absorbing) :
    exec (.absorb n) s = .next (finish (setErr .ok (performAbsorb n s))) := by
  have hok : check (.absorb n) s = .ok := by simp [check_absorb, hcfg, hphase, Nat.not_lt.mpr hn]
  rw [exec_eq_runCommand, runCommand_of_ok hok]
  rfl

/-- Settles O16. -/
theorem absorbAppendsToBuffer : Obligations.AbsorbAppendsToBuffer := by
  intro n s hn hcfg hphase hshort
  rw [exec_absorb hn hcfg hphase, performAbsorb, absorbBytes_append (by simpa using hshort)]
  rfl

/-- Settles O17. A second block cannot fill: BUF began short of the rate, and N is below the rate as well. -/
theorem absorbTakesOneBlock : Obligations.AbsorbTakesOneBlock := by
  intro n s hn hcfg hphase hshort hfull
  have hrate : 4 < s.rate := four_lt_rate s.var
  refine ⟨_, _, rfl, rfl, by simp, ?_⟩
  rw [exec_absorb hn hcfg hphase, performAbsorb,
    absorbBytes_one_block (by simpa using hfull) (by simp only [dinBytes_length]; omega)]
  rfl

/-! ### SQUEEZE -/

/-- FINALIZE leaves nothing for a second FINALIZE (rule R83), so a SQUEEZE may as well find it done. -/
theorem performSqueeze_finalize (n : Nat) (s : State) : performSqueeze n (finalize s) = performSqueeze n s := by
  have hphase : (finalize s).phase = .squeezing := by
    cases hp : s.phase with
    | absorbing => rw [finalize_absorbing hp]
    | squeezing => rw [finalize_squeezing hp, hp]
  rw [performSqueeze, finalize_squeezing hphase, ← performSqueeze]

/-- Settles O18: after FINALIZE the SQUEEZE is one within the output block, from CURSOR = 0 on. -/
theorem firstSqueezeFinalizes : Obligations.FirstSqueezeFinalizes := by
  intro n s hn hcfg hphase
  have hfit : 0 + n ≤ s.rate := by
    have hrate : 4 < s.rate := four_lt_rate s.var
    omega
  refine ⟨_, rfl, ?_⟩
  rw [exec_squeeze hn hcfg, ← performSqueeze_finalize, finalize_absorbing hphase, performSqueeze_within rfl hfit]
  simp only [Nat.zero_add]
  rfl

/-- Settles O19. -/
theorem squeezeWithinTheBlock : Obligations.SqueezeWithinTheBlock := by
  intro n s hn hcfg hphase hfit
  rw [exec_squeeze hn hcfg, performSqueeze_within hphase hfit]
  rfl

/-- SQUEEZE_BYTES that takes the `k` bytes left of the output block and `m` more permutes between them (rule R86). -/
theorem squeezeBytes_across {k m : Nat} {s : State} (hk : s.cursor + k = s.rate) (hm : 0 < m) (hfit : m ≤ s.rate) :
    squeezeBytes (k + m) s =
      ((List.range k).map (fun j => stateByte s.lanes (s.cursor + j)) ++
          (List.range m).map (stateByte (keccakF s.lanes)),
        { s with lanes := keccakF s.lanes, rnd := 0, cursor := m }) := by
  rw [squeezeBytes_add, squeezeBytes_within k s hk.le, squeezeBytes_refill hm hk, squeezeBytes_within]
  · simp [permute]
  · simpa [State.rate] using hfit

/-- Settles O20. -/
theorem squeezeAcrossTheBlock : Obligations.SqueezeAcrossTheBlock := by
  intro n s hn hcfg hphase hcursor hacross
  obtain ⟨k, hk⟩ := Nat.exists_eq_add_of_le hcursor
  obtain ⟨m, rfl⟩ : ∃ m, n = k + m := Nat.exists_eq_add_of_le (by omega)
  have hrate : 4 < s.rate := four_lt_rate s.var
  refine ⟨k, hk.symm, ?_⟩
  rw [exec_squeeze hn hcfg, performSqueeze, finalize_squeezing hphase,
    squeezeBytes_across hk.symm (by omega) (by omega), Nat.add_sub_cancel_left]
  rfl

/-- Settles O27: a SQUEEZE that passes writes S, RND, BUF, PHASE, CURSOR and DOUT, and one that fails ERR and
STICKY. -/
theorem squeezeFrame : Obligations.SqueezeFrame := by
  intro n s t h
  obtain ⟨hdin, -⟩ := commandFrame _ s t h
  rw [exec_eq_runCommand, Host.Outcome.next.injEq] at h
  subst h
  rcases runCommand_cases (.squeeze n) (performOf (.squeeze n)) s with ⟨-, h⟩ | ⟨hfail, h⟩
  · rw [h] at hdin ⊢
    obtain ⟨hcfg, hvar, hsticky⟩ := performSqueeze_unchanged n s
    refine ⟨hcfg, hvar, hdin, fun _ => ⟨hsticky, performSqueeze_phase n s⟩, fun hphase => ?_⟩
    have hbuf := performSqueeze_buf n s
    rwa [finalize_squeezing hphase] at hbuf
  · simp [h, hfail]

/-! ### The outcome code -/

/-- The code a command completes with is the one `check` chose (rules R94 and R110). -/
theorem runCommand_err (i : Instr) (f : State → State) (s : State) : (runCommand i f s).err = check i s := by
  rcases runCommand_cases i f s with ⟨hok, hrun⟩ | ⟨-, hrun⟩
  · rw [hrun, hok]
    rfl
  · rw [hrun]
    rfl

/-- Of the commands' effects, INIT's alone writes STICKY, and clears it (rule R29). -/
theorem performOf_sticky (i : Instr) (s : State) :
    (performOf i s).sticky = true ↔ s.sticky = true ∧ ∀ v, i ≠ .init v := by
  cases i with
  | nop => simp [performOf]
  | init v => simp [performOf, performInit]
  | absorb n => simp [performOf]
  | squeeze n => simp [performOf]

/-- STICKY after a command (rules R29 and R94): set where a check failed, and otherwise the effect's. -/
theorem runCommand_sticky (i : Instr) (s : State) :
    (runCommand i (performOf i) s).sticky = true ↔
      check i s ≠ .ok ∨ (s.sticky = true ∧ ∀ v, i ≠ .init v) := by
  rcases runCommand_cases i (performOf i) s with ⟨hok, hrun⟩ | ⟨hfail, hrun⟩
  · simp [hrun, hok, performOf_sticky]
  · simp [hrun, hfail]

/-- Settles O23. -/
theorem outcomeCodeFollowsTheChecks : Obligations.OutcomeCodeFollowsTheChecks := by
  intro i s
  refine ⟨_, exec_eq_runCommand i s, ?_, ?_⟩
  · rw [runCommand_err]
    cases i with
    | nop => exact check_nop s
    | init v => exact check_init v s
    | absorb n => exact check_absorb n s
    | squeeze n => exact check_squeeze n s
  · rw [runCommand_err]
    exact runCommand_sticky i s

end Sys2Proof.Machine
end

section
/-! Proofs for the family `60_exceptions.md`: which commands raise which error (rules R105 to R107), what a failing
command leaves in the state (rule R109), and the idle block (rules R119 and R121). -/

namespace Sys2Proof

/-! ### The fields of a command word as numbers -/

theorem rsvField_toNat (w : Word) : (rsvField w).toNat = w.toNat / 128 := by
  have hw : w.toNat / 128 < 2 ^ 25 := by omega
  rw [rsvField, BitVec.extractLsb'_toNat, Nat.shiftRight_eq_div_pow, Nat.mod_eq_of_lt hw]

theorem argField_toNat (w : Word) : (argField w).toNat = w.toNat / 16 % 8 := by
  rw [argField, BitVec.extractLsb'_toNat, Nat.shiftRight_eq_div_pow]

theorem opcField_toNat (w : Word) : (opcField w).toNat = w.toNat % 16 := by
  rw [opcField, BitVec.extractLsb'_toNat, Nat.shiftRight_zero]

/-- Rule R61 without the command decoded: the legal arguments of each opcode (rule R60). -/
theorem exists_decode_eq_ok_iff_fields {w : Word} :
    (∃ i, decode w = .ok i) ↔ rsvField w = 0 ∧
      ((opcField w = 0 ∧ argField w = 0) ∨ (opcField w = 1 ∧ argField w ≤ 1) ∨
        (opcField w = 2 ∧ argField w ≤ 4) ∨ (opcField w = 3 ∧ argField w ≤ 4)) := by
  simp only [decode_eq_ok_iff_fields]
  constructor
  · rintro ⟨i, hrsv, hopc, harg⟩
    refine ⟨hrsv, ?_⟩
    cases i with
    | nop => exact .inl ⟨hopc, harg⟩
    | init v => cases v <;> exact .inr (.inl ⟨hopc, by rw [harg]; decide⟩)
    | absorb n => exact .inr (.inr (.inl ⟨hopc, harg.1⟩))
    | squeeze n => exact .inr (.inr (.inr ⟨hopc, harg.1⟩))
  · rintro ⟨hrsv, ⟨hopc, harg⟩ | ⟨hopc, harg⟩ | ⟨hopc, harg⟩ | ⟨hopc, harg⟩⟩
    · exact ⟨.nop, hrsv, hopc, harg⟩
    · have hv : argField w = 0 ∨ argField w = 1 := by bv_omega
      rcases hv with hv | hv
      · exact ⟨.init .shake128, hrsv, hopc, hv⟩
      · exact ⟨.init .shake256, hrsv, hopc, hv⟩
    · exact ⟨.absorb _, hrsv, hopc, harg, rfl⟩
    · exact ⟨.squeeze _, hrsv, hopc, harg, rfl⟩

/-- The same legal words by their number, as rule R105 names their complement. -/
theorem exists_decode_eq_ok_iff_toNat {w : Word} :
    (∃ i, decode w = .ok i) ↔ w.toNat / 128 = 0 ∧
      ((w.toNat % 16 = 0 ∧ w.toNat / 16 % 8 = 0) ∨ (w.toNat % 16 = 1 ∧ w.toNat / 16 % 8 ≤ 1) ∨
        (w.toNat % 16 = 2 ∧ w.toNat / 16 % 8 ≤ 4) ∨ (w.toNat % 16 = 3 ∧ w.toNat / 16 % 8 ≤ 4)) := by
  rw [exists_decode_eq_ok_iff_fields]
  simp [← BitVec.toNat_inj, BitVec.le_def, rsvField_toNat, argField_toNat, opcField_toNat]

end Sys2Proof

namespace Sys2Proof.Machine

/-! ### Which check fails -/

/-- A command completes with the code that `check` chose (rules R94 and R110). -/
theorem err_of_exec {i : Instr} {s t : State} (h : exec i s = .next t) : t.err = check i s := by
  rw [exec_eq_runCommand, Host.Outcome.next.injEq] at h
  rw [← h, runCommand_err]

/-- No decoded command raises ILLEGAL_CMD (rule R105). -/
theorem check_ne_illegalCmd {i : Instr} (h : i.WellFormed) (s : State) : check i s ≠ .illegalCmd := by
  cases i with
  | nop => simp
  | init v => simp
  | absorb n =>
    have hn : ¬ 4 < n := not_lt.mpr (wellFormed_absorb_iff.mp h)
    rw [check_absorb, if_neg hn]
    split_ifs <;> simp
  | squeeze n =>
    have hn : ¬ 4 < n := not_lt.mpr (wellFormed_squeeze_iff.mp h)
    rw [check_squeeze, if_neg hn]
    split_ifs <;> simp

theorem check_eq_notInit_iff (i : Instr) (s : State) :
    check i s = .notInit ↔ s.cfg = false ∧ ∃ n, n ≤ 4 ∧ (i = .absorb n ∨ i = .squeeze n) := by
  cases i with
  | nop => simp
  | init v => simp
  | absorb n => rw [check_absorb]; split_ifs <;> simp_all
  | squeeze n => rw [check_squeeze]; split_ifs <;> simp_all

theorem check_eq_invalidState_iff (i : Instr) (s : State) :
    check i s = .invalidState ↔ s.cfg = true ∧ s.phase = .squeezing ∧ ∃ n, n ≤ 4 ∧ i = .absorb n := by
  cases i with
  | nop => simp
  | init v => simp
  | absorb n => rw [check_absorb]; split_ifs <;> simp_all
  | squeeze n => rw [check_squeeze]; split_ifs <;> simp

/-- Settles O21. -/
theorem notInitIsRaisedExactly : Obligations.NotInitIsRaisedExactly := fun i s =>
  ⟨_, exec_eq_runCommand i s, by rw [runCommand_err, check_eq_notInit_iff]⟩

/-- Settles O22. -/
theorem invalidStateIsRaisedExactly : Obligations.InvalidStateIsRaisedExactly := fun i s =>
  ⟨_, exec_eq_runCommand i s, by rw [runCommand_err, check_eq_invalidState_iff]⟩

/-- A completing word raises ILLEGAL_CMD exactly when it decodes to no command (rules R62 and R105). -/
theorem err_eq_illegalCmd_iff_of_due {s t : State} {c : InFlight} (hdue : s.Due c) (h : step s = .next t) :
    t.err = .illegalCmd ↔ ¬ ∃ i, decode c.word = .ok i := by
  obtain ⟨-, -, ⟨i, hdec, hexec⟩ | ⟨r, hdec, rfl⟩⟩ := completion_of_due hdue h
  · have hlegal : t.err ≠ .illegalCmd := by
      rw [err_of_exec hexec]
      exact check_ne_illegalCmd (decode_eq_ok_iff.mp hdec).1 s
    exact iff_of_false hlegal (not_not_intro ⟨i, hdec⟩)
  · simp [hdec]

/-- Settles O13. -/
theorem illegalCmdIsRaisedExactly : Obligations.IllegalCmdIsRaisedExactly := by
  intro s c hdue
  obtain ⟨t, hstep, -⟩ := step_next_of_due hdue
  refine ⟨t, hstep, ?_⟩
  rw [err_eq_illegalCmd_iff_of_due hdue hstep, exists_decode_eq_ok_iff_toNat]
  omega

/-! ### What a failing command leaves -/

theorem eq_of_exec_of_err_ne_ok {i : Instr} {s t : State} (h : exec i s = .next t) (herr : t.err ≠ .ok) :
    t = { s with err := t.err, sticky := true, busy := none } := by
  have hcheck : t.err = check i s := err_of_exec h
  rw [exec_eq_runCommand, runCommand_of_fail (hcheck ▸ herr), ← hcheck, Host.Outcome.next.injEq] at h
  exact h.symm

/-- Settles O24: the word decodes to a command that fails a check, or to none. -/
theorem failureChangesOnlyErrAndSticky : Obligations.FailureChangesOnlyErrAndSticky := by
  intro s t c hdue hstep herr
  obtain ⟨-, -, ⟨i, -, hexec⟩ | ⟨r, -, rfl⟩⟩ := completion_of_due hdue hstep
  · exact eq_of_exec_of_err_ne_ok hexec herr
  · rfl

/-! ### The idle block -/

/-- Settles O6. -/
theorem idleBlockKeepsItsState : Obligations.IdleBlockKeepsItsState := fun _ => step_of_idle

end Sys2Proof.Machine
end

section
/-! Proofs for the family `70_reset_and_hazards.md`: what a change of the reset input does (rules R120 and R121), the
stall of rule R125, and the bounded completion of every command (rules R126 and R127). -/

namespace Sys2Proof.Machine

/-! ### Reset -/

/-- Settles O4. Whichever input stood before it, the step is the one that drives the reset input. -/
theorem resetInputResetsEveryElement : Obligations.ResetInputResetsEveryElement := by
  intro s asserted es htakes hreset
  calc step s = .next (driveReset asserted { s with events := es }) := step_of_takes htakes
    _ = .next { resetElements { s with events := es } with resetLine := asserted } := by
      rw [driveReset_of_resets (s := { s with events := es }) hreset]

/-- Settles O5. -/
theorem accessDuringResetIsRefused : Obligations.AccessDuringResetIsRefused := by
  intro s a es hev hb hline
  rw [step_of_takes (.inl ⟨hb, hev⟩)]
  simp [hostEvent, hline]

/-! ### The stall -/

/-- Of the accesses to a register, the stall lets through STATUS reads alone (rule R125). -/
theorem answeredWhileBusy_at_offset_eq_false {r : Reg} {op : AccessOp} (h : r = .status → op ≠ .read) :
    answeredWhileBusy (.access ⟨r.offset, 4, op⟩) = false := by
  by_contra hanswered
  obtain ⟨hr, hop⟩ := status_read_of_answered (by simpa using hanswered) (target_at_offset r op)
  exact h hr hop

/-- The accesses that rule R125 stalls, and a STATUS write (log entry 5). -/
theorem answeredWhileBusy_of_stalled {a : Access} (hbytes : a.bytes = 4)
    (hoff : a.off = 0x00 ∨ a.off = 0x04 ∨ a.off = 0x08 ∨ (a.off = 0x0C ∧ ∃ w, a.op = .write w)) :
    answeredWhileBusy (.access a) = false := by
  obtain ⟨off, bytes, op⟩ := a
  cases hbytes
  rcases hoff with hoff | hoff | hoff | ⟨hoff, w, hop⟩ <;> cases hoff
  · exact answeredWhileBusy_at_offset_eq_false (r := .cmd) nofun
  · exact answeredWhileBusy_at_offset_eq_false (r := .din) nofun
  · exact answeredWhileBusy_at_offset_eq_false (r := .dout) nofun
  · cases hop
    exact answeredWhileBusy_at_offset_eq_false (r := .status) nofun

theorem din_of_due {s t : State} {c : InFlight} (hdue : s.Due c) (h : step s = .next t) : t.din = s.din := by
  obtain ⟨-, -, ⟨i, -, hexec⟩ | ⟨r, -, rfl⟩⟩ := completion_of_due hdue h
  · exact (commandFrame i s t hexec).1
  · rfl

/-- Settles O40. Behind a held access the block can take a reset alone, and only while a busy access is left; where
it takes none the command is due. -/
theorem stallHoldsTheAccess : Obligations.StallHoldsTheAccess := by
  intro s c a es hb hev hbytes hoff
  have htaken : takenWhileBusy s.events = (resetBehind es).map fun rest => (.resetInput true, rest) := by
    simp [hev, takenWhileBusy, answeredWhileBusy_of_stalled hbytes hoff]
  by_cases hcompletes : resetBehind es = none ∨ c.busyReads = 0
  · have hdue : s.Due c := ⟨hb, hcompletes.symm.imp_right fun hnone => by simp [htaken, hnone]⟩
    obtain ⟨t, hstep, hbusy, hline, hevents, hreplies⟩ := step_next_of_due hdue
    exact ⟨t, hstep, hbusy, hreplies, .inl ⟨hevents, din_of_due hdue hstep, hline, hcompletes⟩⟩
  · obtain ⟨hsome, hne⟩ := not_or.mp hcompletes
    obtain ⟨rest, hbehind⟩ := Option.ne_none_iff_exists'.mp hsome
    have hpos : 0 < c.busyReads := Nat.pos_of_ne_zero hne
    have htakes : s.Takes (.resetInput true) rest := .inr ⟨c, hb, hpos, by rw [htaken, hbehind]; rfl⟩
    exact ⟨_, resetInputResetsEveryElement s true rest htakes (.inl rfl), rfl, rfl,
      .inr ⟨hbehind, hpos, rfl, by simp [State.SameElements]⟩⟩

/-! ### Bounded completion -/

/-- Only a reset is taken out of turn: any other input the block takes is the host's next (log entry 21). -/
theorem events_of_takes {s : State} {e : HostEvent} {es : List HostEvent} (h : s.Takes e es)
    (hne : e ≠ .resetInput true) : s.events = e :: es := by
  rcases h with ⟨-, hev⟩ | ⟨c, -, -, htaken⟩
  · exact hev
  · rcases takenWhileBusy_cases htaken with ⟨hev, -⟩ | ⟨a, rest, -, -, hreset, -⟩
    · exact hev
    · exact absurd hreset hne

/-- From `s`, with the command `c` in progress, the block has come to `u`, with the same word in progress as `d`: it
wrote no element, and each busy access it answered is one fewer left (rule R127). -/
structure StillBusy (s : State) (c : InFlight) (u : State) (d : InFlight) : Prop where
  busy : u.busy = some d
  word : d.word = c.word
  same : u.SameElements s
  events : u.events <:+ s.events
  replies : u.replies.length + d.busyReads ≤ s.replies.length + c.busyReads

theorem StillBusy.refl {s : State} {c : InFlight} (hb : s.busy = some c) : StillBusy s c s c :=
  ⟨hb, rfl, by simp [State.SameElements], List.suffix_rfl, le_rfl⟩

theorem StillBusy.trans {s u v : State} {c d e : InFlight} (h : StillBusy s c u d) (h' : StillBusy u d v e) :
    StillBusy s c v e where
  busy := h'.busy
  word := h'.word.trans h.word
  same := by
    have hsu := h.same
    have huv := h'.same
    simp_all [State.SameElements]
  events := h'.events.trans h.events
  replies := h'.replies.trans h.replies

/-- The next step ends the command `c` in progress: it completes, or a reset is taken and abandons it. -/
def Ends (s : State) (c : InFlight) : Prop :=
  ∃ t, step s = .next t ∧ t.busy = none ∧ t.replies = s.replies ∧
    ((s.Due c ∧ t.events = s.events) ∨
      ∃ asserted, s.Takes (.resetInput asserted) t.events ∧ t.SameElements State.reset)

theorem ends_of_due {s : State} {c : InFlight} (hdue : s.Due c) : Ends s c := by
  obtain ⟨t, hstep, hbusy, -, hevents, hreplies⟩ := step_next_of_due hdue
  exact ⟨t, hstep, hbusy, hreplies, .inl ⟨hdue, hevents⟩⟩

theorem ends_of_takes_reset {s : State} {c : InFlight} {asserted : Bool} {es : List HostEvent}
    (htakes : s.Takes (.resetInput asserted) es) (hreset : asserted = true ∨ s.resetLine = true) : Ends s c :=
  ⟨_, resetInputResetsEveryElement s asserted es htakes hreset, rfl, rfl,
    .inr ⟨asserted, htakes, by simp [State.SameElements]⟩⟩

/-- A low reset input that is driven low comes to nothing (log entry 16). -/
theorem stillBusy_of_takes_low {s t : State} {c : InFlight} {es : List HostEvent} (hb : s.busy = some c)
    (htakes : s.Takes (.resetInput false) es) (hline : s.resetLine = false) (hstep : step s = .next t) :
    StillBusy s c t c ∧ t.events = es := by
  have ht : t = { s with events := es } := by
    rw [step_of_takes htakes, hostEvent, driveReset_of_low (s := { s with events := es }) hline] at hstep
    cases hstep
    rfl
  subst ht
  refine ⟨⟨hb, rfl, by simp [State.SameElements], ?_, le_rfl⟩, rfl⟩
  rw [events_of_takes htakes nofun]
  exact List.suffix_cons _ _

/-- An access taken while BUSY = 1 that gets no bus error is a STATUS read, which uses one busy access up (rules R125
and R127). -/
theorem stillBusy_of_takes_access {s t : State} {c : InFlight} {a : Access} {es : List HostEvent}
    (hb : s.busy = some c) (htakes : s.Takes (.access a) es) (hstep : step s = .next t) :
    StillBusy s c t { c with busyReads := c.busyReads - 1 } ∧ t.events = es := by
  obtain ⟨hev, hidle | ⟨d, hd, hpos, hanswered⟩⟩ := takes_access htakes
  · simp [hb] at hidle
  · cases hb.symm.trans hd
    rw [step_of_takes htakes] at hstep
    obtain ⟨-, r, hreg, rfl⟩ := hostEvent_access_eq_next_iff.mp hstep
    obtain ⟨rfl, hop⟩ := status_read_of_answered hanswered hreg
    have hserve : serve .status a.op { s with events := es } = replyBusyStatus c { s with events := es } := by
      simp [serve, hop, hb]
    rw [hserve]
    refine ⟨⟨rfl, rfl, by simp [State.SameElements, replyBusyStatus], ?_, ?_⟩, rfl⟩
    · rw [hev]
      exact List.suffix_cons _ _
    · show s.replies.length + 1 + (c.busyReads - 1) ≤ s.replies.length + c.busyReads
      omega

/-- With a command in progress the next step of a legal host's block ends it, or takes an input and leaves it in
progress. -/
theorem ends_or_stillBusy {s : State} {c : InFlight} (hb : s.busy = some c) (hlegal : s.HostLegal) :
    Ends s c ∨ ∃ t d, step s = .next t ∧ StillBusy s c t d ∧ t.HostLegal ∧ t.events.length < s.events.length := by
  obtain ⟨t, hstep, hlegal'⟩ := legalHostNeverStopsTheBlock s hlegal
  rcases step_cases s with ⟨hidle, -⟩ | ⟨e, es, htakes⟩ | ⟨d, hdue⟩
  · simp [hb] at hidle
  · cases e with
    | resetInput asserted =>
      by_cases hreset : asserted = true ∨ s.resetLine = true
      · exact .inl (ends_of_takes_reset htakes hreset)
      · rw [not_or, Bool.not_eq_true, Bool.not_eq_true] at hreset
        obtain ⟨rfl, hline⟩ := hreset
        obtain ⟨hstill, hevents⟩ := stillBusy_of_takes_low hb htakes hline hstep
        exact .inr ⟨t, _, hstep, hstill, hlegal', by simp [hevents, events_of_takes htakes]⟩
    | access a =>
      obtain ⟨hstill, hevents⟩ := stillBusy_of_takes_access hb htakes hstep
      exact .inr ⟨t, _, hstep, hstill, hlegal', by simp [hevents, events_of_takes htakes]⟩
  · cases hdue.1.symm.trans hb
    exact .inl (ends_of_due hdue)

/-- Within as many steps as inputs are pending the command in progress is about to end, by induction on that number:
each step that does not end the command takes one. -/
theorem exists_run_to_ends {s : State} {c : InFlight} (hb : s.busy = some c) (hlegal : s.HostLegal) :
    ∃ k u d, k ≤ s.events.length ∧ core.run k s = .next u ∧ StillBusy s c u d ∧ Ends u d := by
  rcases ends_or_stillBusy hb hlegal with hends | ⟨t, d, hstep, hstill, hlegal', hfewer⟩
  · exact ⟨0, s, c, Nat.zero_le _, rfl, .refl hb, hends⟩
  · obtain ⟨k, u, e, hk, hrun, hstill', hends⟩ := exists_run_to_ends hstill.busy hlegal'
    exact ⟨k + 1, u, e, by omega, (core_run_succ hstep k).trans hrun, hstill.trans hstill', hends⟩
termination_by s.events.length

/-- Settles O43. A reset that ends the command was pending from the start, since no step adds inputs. -/
theorem everyCommandCompletes : Obligations.EveryCommandCompletes := by
  intro s c hb hlegal
  obtain ⟨k, u, d, hk, hrun, hstill, t, hstep, hbusy, hreplies, hend⟩ := exists_run_to_ends hb hlegal
  have hanswered : t.replies.length ≤ s.replies.length + c.busyReads :=
    hreplies ▸ (Nat.le_add_right _ _).trans hstill.replies
  refine ⟨k, u, t, d, hk, hrun, hstill.busy, hstill.word, hstill.same, hstep, hbusy, hreplies, hanswered, ?_⟩
  exact hend.imp_right fun ⟨asserted, htakes, hsame⟩ =>
    ⟨asserted, htakes, hstill.events.mem (takes_resetInput htakes).1, hsame⟩

end Sys2Proof.Machine
end
